-- ==== Sys2Proof/Word.lean ====
section
/-! DEFINITION. The word types of the engine (`00_scope.md` R7, R9). All values are unsigned (R9, R70). -/

namespace Sys2Proof

/-- A register-wide value, `REG_W` = 32 bits (R7, R10). -/
abbrev Word := BitVec 32

/-- One input datum, `BYTE_W` = 8 bits (R7, `20_memory.md` R29). -/
abbrev Byte := BitVec 8

/-- A checksum, `CRC_W` = 24 bits (R7, `20_memory.md` R34). -/
abbrev Sum24 := BitVec 24

/-- A command word, `CMD_W` = 10 bits (R8, `30_encoding.md` R43). -/
abbrev CommandWord := BitVec 10

end Sys2Proof
end

