-- ==== Sys2Proof/Syntax.lean ====
section
/-! DEFINITION. The commands of the engine, one constructor per row of `opcode_table.json`, in its order
(`30_encoding.md` R44). -/

namespace Sys2Proof

/-- A command. The ignored `data` bits of NOP, RESET and SUM words are no operand (R45, R47). -/
inductive Instr where
  /-- `00xxxxxxxx`: no operation (`40_operations.md` R62). -/
  | nop
  /-- `01xxxxxxxx`: set the register to `INITIAL` (R59). -/
  | reset
  /-- `10dddddddd`: process one byte (R60). -/
  | write (v : Byte)
  /-- `11xxxxxxxx`: return the masked register (R61). -/
  | sum
deriving DecidableEq, Repr

end Sys2Proof
end

