-- ==== Sys2Proof/WellFormed.lean ====
section
/-! DEFINITION. Well-formedness. The command set has no ill-formed member: every byte is an operand of WRITE
(`20_memory.md` R29) and every 10-bit word is a command (`30_encoding.md` R44, R47). What can be ill-formed is a
NUMBER that is offered as a word or as a byte from outside, and each of the two has its check. -/

namespace Sys2Proof

/-- Every command is well formed (R29, R47). -/
def Instr.wellFormed : Instr → Bool
  | .nop => true
  | .reset => true
  | .write _ => true
  | .sum => true

/-- The number fits the ten wires of the `cmd` port (R42, R43). -/
def isCommandWord (w : Nat) : Bool := decide (w < 1024)

/-- The number is a byte, 0 to 255 (R29, R52). -/
def isByteOperand (n : Nat) : Bool := decide (n ≤ 255)

end Sys2Proof
end

