-- ==== Sys2Proof/Decode.lean ====
section
/-! DEFINITION. The decoder and encoder of the one format CMD10 (`30_encoding.md` R43 to R49). -/

namespace Sys2Proof

/-! ### Fields (R43) -/

/-- `op = cmd[9:8]`. -/
def opField (w : CommandWord) : BitVec 2 := w.extractLsb' 8 2

/-- `data = cmd[7:0]`, with `data[7]` = `cmd[7]` and no reflection (R43, R45). -/
def dataField (w : CommandWord) : Byte := w.extractLsb' 0 8

/-- The word with the given fields, `oodddddddd` (R43). -/
def wordOf (op : BitVec 2) (data : Byte) : CommandWord := (op ++ data : BitVec (2 + 8))

/-! ### Decoding (R46) -/

/-- Total on 10-bit words and blind to all state (R46). NOP, RESET and SUM ignore `data` (R47). -/
def decode (w : CommandWord) : Instr :=
  if opField w = 0b00#2 then .nop
  else if opField w = 0b01#2 then .reset
  else if opField w = 0b10#2 then .write (dataField w)
  else .sum

/-- Why a number is no command. No 10-bit word is ever rejected (R47). -/
inductive DecodeReject where
  /-- The number does not fit the ten wires of `cmd` (R42), so it is no word of the port at all. Safe. -/
  | notACommandWord
deriving DecidableEq, Repr

/-- The decoder on any number whatever: a word of the port is decoded, anything else rejected by name (log 6). -/
def decodeNumber (w : Nat) : Except DecodeReject Instr :=
  if isCommandWord w then .ok (decode (BitVec.ofNat 10 w)) else .error .notACommandWord

/-- The host's question: the instruction read from the word `w`. All commands have one length (R49), so the
number of bits is not needed. -/
def decodeTableWord (_nbits w : Nat) : Option Instr :=
  match decodeNumber w with
  | .ok i => some i
  | .error _ => none

/-! ### Encoding (R44, R48) -/

/-- The operation selector (R44). -/
def opcode : Instr → BitVec 2
  | .nop => 0b00#2
  | .reset => 0b01#2
  | .write _ => 0b10#2
  | .sum => 0b11#2

/-- The `data` field an assembler emits: the byte of WRITE, zero for the others (R48). -/
def canonicalData : Instr → Byte
  | .nop => 0#8
  | .reset => 0#8
  | .write v => v
  | .sum => 0#8

/-- The canonical word: NOP `0x000`, RESET `0x100`, WRITE v `0x200 + v`, SUM `0x300` (R48). -/
def encode (i : Instr) : CommandWord := wordOf (opcode i) (canonicalData i)

/-- A word an assembler emits: `data` is zero unless the operation is WRITE (R48). -/
def isCanonicalWord (w : CommandWord) : Bool := opField w == 0b10#2 || dataField w == 0#8

end Sys2Proof
end

