-- ==== Sys2Proof/Config.lean ====
section
/-! DEFINITION. The parameters of `00_scope.md` R7 and R8. Those of R7 are hardwired: no operation reads or
changes one (`10_state.md` R19). Of the OPEN parameters of R8 only `INSTANCES` enters the model; no rule depends
on `F_CLK` (`70_reset_and_hazards.md` R106) or `BUS_WRAPPER` (`20_memory.md` R37). -/

namespace Sys2Proof

/-- `INITIAL`, the register's value after a reset (R7; spelled `0x0B704CE` in the source, `90_conflicts.md` C3). -/
def Config.initial : Word := 0x00B704CE#32

/-- `POLYNOMIAL`, with its leading term at bit 24 (R7, `90_conflicts.md` C2). -/
def Config.polynomial : Word := 0x01864CFB#32

/-- `POLY24` = `POLYNOMIAL[23:0]` (R7, `90_conflicts.md` C2). -/
def Config.poly24 : Sum24 := 0x864CFB#24

/-- `FEEDBACK_MASK`: bit 24, the bit tested after each shift (R7). -/
def Config.feedbackMask : Word := 0x01000000#32

/-- `SUM_MASK` (R7). -/
def Config.sumMask : Word := 0x00FFFFFF#32

/-- `BYTE_SHIFT`: how far an input byte is shifted left before it is XORed in (R7). -/
def Config.byteShift : Nat := 16

/-- `STEPS_PER_BYTE` (R7). -/
def Config.stepsPerByte : Nat := 8

/-- How many engines a platform holds beyond the first. `INSTANCES` is OPEN, at least 1 (R8, `10_state.md` R26):
this value has no body, so no proof can see it (log 9). -/
opaque Config.instancesBeyondFirst : Nat

/-- `INSTANCES` (R8), at least 1 by its form. -/
def Config.instanceCount : Nat := Config.instancesBeyondFirst + 1

end Sys2Proof
end

