-- ==== Sys2Proof/Machine/Flags.lean ====
section
/-! DEFINITION. The engine stores no flag (`10_state.md` R18): this file holds the one condition it computes, the
test inside a shift-and-reduce step, which no operation can read afterwards. -/

namespace Sys2Proof.Machine

/-- `(t & 0x01000000) != 0`, tested on the value AFTER the shift (`40_operations.md` R56). -/
def feedback (t : Word) : Bool := t &&& Config.feedbackMask != 0#32

end Sys2Proof.Machine
end

