-- ==== Sys2Proof/Machine/Operands.lean ====
section
/-! DEFINITION. The one operand form: the byte of WRITE (`30_encoding.md` R45). RESET, SUM and NOP have none. -/

namespace Sys2Proof.Machine

/-- The byte as it meets the register: `zext_32(v) << 16`, unsigned, no reversal (R45; `20_memory.md` R30). -/
def operandWord (v : Byte) : Word := v.setWidth 32 <<< Config.byteShift

end Sys2Proof.Machine
end

