-- ==== Sys2Proof/Machine/State.lean ====
section
/-! DEFINITION. The state of one engine together with its host, as plain data (`10_state.md` R13 to R23). -/

namespace Sys2Proof.Machine

/-- What the host holds at the input ports at one rising edge of `clk` (`30_encoding.md` R42, R50). Both are
definite bits (`70_reset_and_hazards.md` R109). -/
structure Edge where
  /-- The hardware reset pin, active high. -/
  rst : Bool
  /-- The command word, ignored when `rst` is 1 (R50). -/
  cmd : CommandWord
deriving DecidableEq, Repr

/-- Whether the period of `70_reset_and_hazards.md` R101, in which the register holds no specified value, is over.
The model's own marker (DESIGN CHOICE, log 1): no command and no port reads it out. -/
inductive Phase where
  /-- After power-on, before the first RESET or hardware reset. -/
  | beforeReset
  /-- After the first RESET or hardware reset. -/
  | afterReset
deriving DecidableEq, Repr

/-- One engine and its host. The engine's whole architectural state is `crc` (R13); the other fields say how
far the outside is: the unspecified period (`phase`), the host's inputs and its place in them (`program`, `index`),
and what it has been handed (`returned`). -/
structure State where
  /-- The register `CRC`, 32 bits (R13). -/
  crc : Word
  /-- Whether a reset has happened (R101; log 1). -/
  phase : Phase
  /-- The edges the host drives, a finite list it chose (R17, R107; log 2). -/
  program : List Edge
  /-- The host's index of the next edge, from 0, up by 1 at each (R17; log 5). Cycle k of R50. -/
  index : Nat
  /-- The values SUM has returned, oldest first (R107; log 4). -/
  returned : List Sum24
deriving DecidableEq, Repr

/-- How the machine could stop with a fault. There is no way: the list of exception causes is empty
(`60_exceptions.md` R85), so this type has no constructor. -/
inductive Fault where
deriving DecidableEq, Repr

/-- How a command could be given no meaning. -/
inductive Refusal where
  /-- An instruction whose arm in Dispatch has no meaning yet. Safe. No arm uses it. -/
  | notModelled (mnemonic : String)
  /-- Raised by WRITE and SUM before the first reset: `70_reset_and_hazards.md` R101 gives them no meaning there
  ("it refuses them"). Safe: nothing is claimed of the unspecified content. -/
  | beforeFirstReset
deriving DecidableEq, Repr

/-- The machine right after a hardware reset: `CRC` = `0x00B704CE` (R22, R23), the host at the start of an empty
list of edges, nothing returned yet (log 2). -/
def State.reset : State :=
  { crc := Config.initial, phase := .afterReset, program := [], index := 0, returned := [] }

end Sys2Proof.Machine
end

