-- ==== Sys2Proof/Machine/Ops.lean ====
section
/-! DEFINITION. The shared operations: the pure functions of `40_operations.md` R55 to R58 and R63, and the named
accesses to the register and to the host's side of State.

There is no exception to take and none to return from (`60_exceptions.md` R85, R88, R89): the one event besides
the commands is the hardware reset, `hardwareReset`. -/

namespace Sys2Proof.Machine

/-! ### Pure functions on the register's value -/

/-- `XORIN(c, v)` (R55). -/
def xorIn (c : Word) (v : Byte) : Word := c ^^^ operandWord v

/-- `SHIFT1(c)`, the shift-and-reduce step (R56). -/
def shift1 (c : Word) : Word :=
  let t := c <<< 1
  if feedback t then t ^^^ Config.polynomial else t

/-- `BYTESTEP(c, v)` = `SHIFT1^8(XORIN(c, v))` (R58). -/
def byteStep (c : Word) (v : Byte) : Word := shift1^[Config.stepsPerByte] (xorIn c v)

/-- `CRC & 0x00FFFFFF`, delivered as the 24-bit value `CRC[23:0]` (R61). -/
def maskedSum (c : Word) : Sum24 := (c &&& Config.sumMask).setWidth 24

/-- `G(c, B)`: the register after writing the bytes `B` from the value `c` (R63). -/
def writeAll (c : Word) (bytes : List Byte) : Word := bytes.foldl byteStep c

/-- `F(B)`: the CRC-24/OpenPGP checksum of `B` (R63). -/
def checksum (bytes : List Byte) : Sum24 := maskedSum (writeAll Config.initial bytes)

/-! ### The register -/

/-- `CRC <- INITIAL`, all 32 bits, from any prior content; the unspecified period ends (R59, R98, R101). -/
def State.initialise (s : State) : State := { s with crc := Config.initial, phase := .afterReset }

/-- `CRC <- v` (`00_scope.md` R10). -/
def State.setCrc (s : State) (v : Word) : State := { s with crc := v }

/-- The `sum` port: `CRC[23:0]` in every cycle, whatever is on `cmd` and `rst` (`30_encoding.md` R51,
`70_reset_and_hazards.md` R110). Before the first reset it has no specified value (R101, R110). -/
def State.sumPort (s : State) : Option Sum24 :=
  match s.phase with
  | .beforeReset => none
  | .afterReset => some (maskedSum s.crc)

/-- `return v`: the host receives one value of SUM (R10, R107). -/
def State.deliver (s : State) (v : Sum24) : State := { s with returned := s.returned ++ [v] }

/-- A command that has a meaning only once a reset has happened (R101: "it refuses them"). -/
def onceReset (s t : State) : Host.Outcome State Fault Refusal :=
  match s.phase with
  | .beforeReset => .refused .beforeFirstReset
  | .afterReset => .next t

/-! ### Events that are no commands -/

/-- The hardware reset: `CRC <- 0x00B704CE` (R99), the same effect as RESET (R98). -/
def hardwareReset (s : State) : State := s.initialise

/-- Power is applied (again): the register holds some `content` the spec does not specify, and no reset has
happened yet (R101, `60_exceptions.md` R96). Applied by the outside only: `step` never does. The host's side of State
stays as it is (DESIGN CHOICE, log 1). -/
def powerOn (content : Word) (s : State) : State := { s with crc := content, phase := .beforeReset }

/-! ### The host's side -/

/-- An edge at which the host has nothing to do: `rst` = 0 and the all-zero word, a NOP (R44, R50). -/
def Edge.idle : Edge := { rst := false, cmd := 0#10 }

/-- The edges still to come. -/
def State.upcoming (s : State) : List Edge := s.program.drop s.index

/-- The edge sampled now. When the host has nothing to do it is a NOP (`30_encoding.md` R50; log 3). -/
def State.presented (s : State) : Edge := s.upcoming.headD Edge.idle

/-- The host's index moves on by exactly 1 (`10_state.md` R17). -/
def State.advance (s : State) : State := { s with index := s.index + 1 }

/-- The list with `e` as its entry `n`; cycles before `n` that the list did not reach were idle. -/
def placeEdge : List Edge → Nat → Edge → List Edge
  | [], 0, e => [e]
  | [], n + 1, e => Edge.idle :: placeEdge [] n e
  | _ :: rest, 0, e => e :: rest
  | d :: rest, n + 1, e => d :: placeEdge rest n e

/-- The command word `w` presented at the next edge, and nothing else changed. -/
def State.withCommand (s : State) (w : CommandWord) : State :=
  { s with program := placeEdge s.program s.index { rst := false, cmd := w } }

end Sys2Proof.Machine
end

