-- ==== Sys2Proof/Machine/Control.lean ====
section
/-! DEFINITION. NOP and RESET (`40_operations.md` R62, R59). -/

namespace Sys2Proof.Machine

/-- NOP: `CRC` is neither read nor written (R62); it has this meaning before the first reset too (R101). -/
def execNop (s : State) : Host.Outcome State Fault Refusal := .next s

/-- RESET: `CRC <- 0x00B704CE` from any prior content, specified or not (R59, R66, R101). -/
def execReset (s : State) : Host.Outcome State Fault Refusal := .next s.initialise

end Sys2Proof.Machine
end

