-- ==== Sys2Proof/Machine/Stream.lean ====
section
/-! DEFINITION. WRITE and SUM (`40_operations.md` R60, R61). -/

namespace Sys2Proof.Machine

/-- WRITE v: `CRC <- BYTESTEP(CRC, v)`, one atomic transition (R60, `20_memory.md` R35). -/
def execWrite (v : Byte) (s : State) : Host.Outcome State Fault Refusal :=
  onceReset s (s.setCrc (byteStep s.crc v))

/-- SUM: the host receives `CRC & 0x00FFFFFF`; the register is not written (R61, `20_memory.md` R36). -/
def execSum (s : State) : Host.Outcome State Fault Refusal :=
  onceReset s (s.deliver (maskedSum s.crc))

end Sys2Proof.Machine
end

