-- ==== Sys2Proof/Machine/Dispatch.lean ====
section
/-! DEFINITION. One arm per constructor of Instr. -/

namespace Sys2Proof.Machine

/-- What a command does, at the operation level (`40_operations.md` R59 to R62). -/
def exec (i : Instr) (s : State) : Host.Outcome State Fault Refusal :=
  match i with
  | .nop => Sys2Proof.Machine.execNop s
  | .reset => Sys2Proof.Machine.execReset s
  | .write v => Sys2Proof.Machine.execWrite v s
  | .sum => Sys2Proof.Machine.execSum s

end Sys2Proof.Machine
end

