-- ==== Sys2Proof/Machine/Sampling.lean ====
section
/-! DEFINITION. What one rising edge does (`30_encoding.md` R50). -/

namespace Sys2Proof.Machine

/-- If `rst` is 1 the hardware reset is performed and `cmd` is ignored; otherwise the word on `cmd` is decoded and
executed (R50; `60_exceptions.md` R87). -/
def executeEdge (e : Edge) (s : State) : Host.Outcome State Fault Refusal :=
  if e.rst then .next (hardwareReset s) else exec (decode e.cmd) s

end Sys2Proof.Machine
end

