-- ==== Sys2Proof/Machine/Step.lean ====
section
/-! DEFINITION. One step is one rising edge of `clk` (`30_encoding.md` R50, `70_reset_and_hazards.md` R104). -/

namespace Sys2Proof.Machine

/-- Sample the presented edge and complete its effect; the host's index moves on. -/
def step (s : State) : Host.Outcome State Fault Refusal := executeEdge s.presented s.advance

/-- `s` with the word `w` on `cmd` (and `rst` = 0) at the next edge. The port has ten wires (R42). -/
def State.withFetchWord (s : State) (_nbits w : Nat) : State := s.withCommand (BitVec.ofNat 10 w)

end Sys2Proof.Machine
end

