-- ==== Sys2Proof/Machine/Program.lean ====
section
/-! DEFINITION. Sequences: pseudo-instructions (`30_encoding.md` R53), the source's calls (R54), runs
(`70_reset_and_hazards.md` R107), and what a run is owed (`10_state.md` R24, `40_operations.md` R63). -/

namespace Sys2Proof.Machine

/-- `k` rising edges of the host's machine. -/
def runFor (k : Nat) (s : State) : Host.Outcome State Fault Refusal := Host.Core.run Sys2Proof.core k s

/-- The host loads a list of edges and starts at its beginning; what it was handed before it keeps (R17; log 2). -/
def State.load (s : State) (edges : List Edge) : State := { s with program := edges, index := 0 }

/-- A command presented with `rst` = 0, by its canonical word (R48, R50). -/
def Edge.ofInstr (i : Instr) : Edge := { rst := false, cmd := encode i }

/-- An edge with `rst` = 1. `cmd` is ignored there (R50), whatever it is. -/
def Edge.withReset (cmd : CommandWord) : Edge := { rst := true, cmd := cmd }

/-! ### Pseudo-instructions (R53) -/

/-- A pseudo-instruction; it has no encoding of its own. -/
inductive Pseudo where
  /-- `WRITES b0, ..., b(k-1)`, k at least 0. -/
  | writes (bytes : List Byte)
  /-- `CRC24 b0, ..., b(k-1)`: a whole checksum. -/
  | crc24 (bytes : List Byte)
  /-- `IDLE n`. -/
  | idle (n : Nat)
deriving DecidableEq, Repr

/-- The command sequence a pseudo-instruction stands for. -/
def Pseudo.expand : Pseudo → List Instr
  | .writes bytes => bytes.map Instr.write
  | .crc24 bytes => Instr.reset :: (bytes.map Instr.write ++ [Instr.sum])
  | .idle n => List.replicate n Instr.nop

/-! ### The source's software interface (R54) -/

/-- A call of the source's interface. -/
inductive Call where
  /-- Constructing an engine. -/
  | construct
  /-- `reset()`. -/
  | reset
  /-- `write(bytes)`. -/
  | write (bytes : List Byte)
  /-- `sum()`. -/
  | sum
deriving DecidableEq, Repr

/-- The edges a call stands for: construction is a hardware reset (R23), `write` is one WRITE per byte and no
command at all for no byte (R54, R63). -/
def Call.edges : Call → List Edge
  | .construct => [Edge.withReset 0#10]
  | .reset => [Edge.ofInstr .reset]
  | .write bytes => bytes.map (fun v => Edge.ofInstr (.write v))
  | .sum => [Edge.ofInstr .sum]

/-! ### What a run is owed -/

/-- The bytes written since the last reset after these edges, when `sofar` were written before them. Only WRITE,
RESET and the hardware reset matter (R24, `20_memory.md` R38). -/
def bytesSinceReset (sofar : List Byte) : List Edge → List Byte
  | [] => sofar
  | e :: rest =>
    if e.rst then bytesSinceReset [] rest
    else
      match decode e.cmd with
      | .nop => bytesSinceReset sofar rest
      | .reset => bytesSinceReset [] rest
      | .write v => bytesSinceReset (sofar ++ [v]) rest
      | .sum => bytesSinceReset sofar rest

/-- The values the SUM commands among these edges are owed: each the checksum of the bytes written since the last
reset before it (R24, R38). -/
def owedSums (sofar : List Byte) : List Edge → List Sum24
  | [] => []
  | e :: rest =>
    if e.rst then owedSums [] rest
    else
      match decode e.cmd with
      | .nop => owedSums sofar rest
      | .reset => owedSums [] rest
      | .write v => owedSums (sofar ++ [v]) rest
      | .sum => checksum sofar :: owedSums sofar rest

/-- The edge is an executed NOP, canonical or not. -/
def Edge.isNop (e : Edge) : Bool := !e.rst && decode e.cmd == .nop

end Sys2Proof.Machine
end

