-- ==== Sys2Proof/Machine/Rendering.lean ====
section
/-! DEFINITION. The 24-bit sum as three bytes (`20_memory.md` R32) and as text (`41_host_boundary.md` R78 to R81).
HOST SIDE except R32: no part of the engine, and `step` does not use this file. The alphabets and the newline byte
are from general knowledge, as `93_implementation_defined.md` K3 to K5 say (PRESUMED, log 12). -/

namespace Sys2Proof.Machine

/-- Text, as a list of characters. -/
abbrev Text := List Char

/-- The newline of R78 and R79: one line feed (K4). -/
def newline : Char := '\n'

/-! ### Bytes of the sum (R32) -/

/-- `B0 = sum[23:16]`, `B1 = sum[15:8]`, `B2 = sum[7:0]`, `B0` first. -/
def sumBytes (s : Sum24) : List Byte := [s.extractLsb' 16 8, s.extractLsb' 8 8, s.extractLsb' 0 8]

/-- The sum of three bytes, most significant first; nothing else is a sum. -/
def sumOfBytes : List Byte → Option Sum24
  | [b0, b1, b2] => some (b0 ++ b1 ++ b2 : BitVec (8 + 8 + 8))
  | _ => none

/-! ### Hexadecimal mode (R78) -/

/-- The digits `0`-`9` and `A`-`F`. -/
def hexDigits : Text := ['0', '1', '2', '3', '4', '5', '6', '7', '8', '9', 'A', 'B', 'C', 'D', 'E', 'F']

/-- The digit of a value below 16. -/
def hexDigit (d : BitVec 4) : Char := hexDigits.getD d.toNat '0'

/-- The value of an upper-case hexadecimal digit. -/
def hexValue (c : Char) : Option Nat := hexDigits.findIdx? (fun d => d == c)

/-- Six upper-case digits, zero-padded, most significant first, and a newline. -/
def hexLine (s : Sum24) : Text :=
  [hexDigit (s.extractLsb' 20 4), hexDigit (s.extractLsb' 16 4), hexDigit (s.extractLsb' 12 4),
   hexDigit (s.extractLsb' 8 4), hexDigit (s.extractLsb' 4 4), hexDigit (s.extractLsb' 0 4), newline]

/-- The integer that digits spell, most significant first, after `acc` (R81). -/
def parseHex (acc : Nat) : Text → Option Nat
  | [] => some acc
  | c :: rest =>
    match hexValue c with
    | some d => parseHex (16 * acc + d) rest
    | none => none

/-! ### Base64 OpenPGP mode (R79, R80) -/

/-- The standard base64 alphabet (K3). -/
def base64Alphabet : Text :=
  ['A', 'B', 'C', 'D', 'E', 'F', 'G', 'H', 'I', 'J', 'K', 'L', 'M', 'N', 'O', 'P', 'Q', 'R', 'S', 'T', 'U', 'V', 'W',
   'X', 'Y', 'Z'] ++
  ['a', 'b', 'c', 'd', 'e', 'f', 'g', 'h', 'i', 'j', 'k', 'l', 'm', 'n', 'o', 'p', 'q', 'r', 's', 't', 'u', 'v', 'w',
   'x', 'y', 'z'] ++
  ['0', '1', '2', '3', '4', '5', '6', '7', '8', '9', '+', '/']

/-- The character of a 6-bit group. -/
def base64Char (g : BitVec 6) : Char := base64Alphabet.getD g.toNat 'A'

/-- The value of a character of the alphabet. -/
def base64Value (c : Char) : Option Nat := base64Alphabet.findIdx? (fun d => d == c)

/-- Three bytes as four characters; three bytes are a complete group, so no padding arises (R79,
`90_conflicts.md` C6). -/
def base64Group (b0 b1 b2 : Byte) : Text :=
  [base64Char (b0.extractLsb' 2 6),
   base64Char (b0.extractLsb' 0 2 ++ b1.extractLsb' 4 4 : BitVec (2 + 4)),
   base64Char (b1.extractLsb' 0 4 ++ b2.extractLsb' 6 2 : BitVec (4 + 2)),
   base64Char (b2.extractLsb' 0 6)]

/-- `=`, the group of the sum's three bytes, and a newline. The input of the encoder is the raw bytes, never their
hexadecimal text (R80). -/
def base64Line (s : Sum24) : Text :=
  '=' :: (base64Group (s.extractLsb' 16 8) (s.extractLsb' 8 8) (s.extractLsb' 0 8) ++ [newline])

/-- Four characters of the alphabet as the three bytes they encode (R81). -/
def base64Bytes : Text → Option (List Byte)
  | [c0, c1, c2, c3] =>
    match base64Value c0, base64Value c1, base64Value c2, base64Value c3 with
    | some g0, some g1, some g2, some g3 =>
      some [(BitVec.ofNat 6 g0 ++ (BitVec.ofNat 6 g1).extractLsb' 4 2 : BitVec (6 + 2)),
            ((BitVec.ofNat 6 g1).extractLsb' 0 4 ++ (BitVec.ofNat 6 g2).extractLsb' 2 4 : BitVec (4 + 4)),
            ((BitVec.ofNat 6 g2).extractLsb' 0 2 ++ BitVec.ofNat 6 g3 : BitVec (2 + 6))]
    | _, _, _, _ => none
  | _ => none

/-- Read a line of base64 mode back: strip the leading `=` and the newline, decode the group (R81). -/
def readBase64Line (line : Text) : Option (List Byte) :=
  match line with
  | '=' :: rest => if rest.getLast? = some newline then base64Bytes rest.dropLast else none
  | _ => none

/-- Read a line of hexadecimal mode back: strip the newline, parse the digits (R81). -/
def readHexLine (line : Text) : Option Nat :=
  if line.getLast? = some newline then parseHex 0 line.dropLast else none

end Sys2Proof.Machine
end

