-- ==== Sys2Proof/Machine/Assembler.lean ====
section
/-! DEFINITION. The assembler and disassembler text of `30_encoding.md` R48, R52, R53. Host notation only: `step`
does not use this file. Where the spec shows a spelling by example only, log 11 says what is read. -/

namespace Sys2Proof.Machine

/-- One line that holds a command or a pseudo-instruction. -/
inductive Statement where
  | command (i : Instr)
  | pseudo (p : Pseudo)
deriving DecidableEq, Repr

/-- The commands a line stands for. -/
def Statement.expand : Statement → List Instr
  | .command i => [i]
  | .pseudo p => p.expand

/-! ### Reading -/

/-- Text without its leading blanks. -/
def skipBlanks (t : Text) : Text := t.dropWhile (fun c => c == ' ')

/-- `c` is a digit of the base. -/
def isDigit (base : Nat) (c : Char) : Bool :=
  match hexValue c with
  | some d => decide (d < base)
  | none => false

/-- The value of a run of digits. -/
def digitsValue (base : Nat) (ds : Text) : Nat :=
  ds.foldl (fun acc c => base * acc + (hexValue c).getD 0) 0

/-- A number in the base, at least one digit, and the text after it. Leading zeros change nothing
(`00_scope.md` R9). -/
def readNumber (base : Nat) (t : Text) : Option (Nat × Text) :=
  let ds := t.takeWhile (isDigit base)
  if ds = [] then none else some (digitsValue base ds, t.drop ds.length)

/-- A byte operand: `0x00` to `0xFF`, `0` to `255`, or one ASCII character in single quotes (R52). -/
def readByte (t : Text) : Option (Byte × Text) :=
  match t with
  | '\'' :: c :: '\'' :: rest => if c.toNat < 128 then some (BitVec.ofNat 8 c.toNat, rest) else none
  | '0' :: 'x' :: rest =>
    match readNumber 16 rest with
    | some (n, rest') => if isByteOperand n then some (BitVec.ofNat 8 n, rest') else none
    | none => none
  | _ =>
    match readNumber 10 t with
    | some (n, rest) => if isByteOperand n then some (BitVec.ofNat 8 n, rest) else none
    | none => none

/-- One or more byte operands with commas between; `fuel` bounds their number. -/
def readByteList : Nat → Text → Option (List Byte × Text)
  | 0, _ => none
  | fuel + 1, t =>
    match readByte (skipBlanks t) with
    | none => none
    | some (v, rest) =>
      match skipBlanks rest with
      | ',' :: more =>
        match readByteList fuel more with
        | some (vs, rest') => some (v :: vs, rest')
        | none => none
      | rest' => some ([v], rest')

/-- The operands of WRITES and CRC24: nothing, the ASCII text between double quotes, or a list of bytes (R53). -/
def readMessage (t : Text) : Option (List Byte × Text) :=
  match skipBlanks t with
  | [] => some ([], [])
  | ';' :: rest => some ([], ';' :: rest)
  | '"' :: rest =>
    let text := rest.takeWhile (fun c => c != '"')
    match rest.drop text.length with
    | '"' :: rest' =>
      if text.all (fun c => decide (c.toNat < 128)) then some (text.map (fun c => BitVec.ofNat 8 c.toNat), rest')
      else none
    | _ => none
  | rest => readByteList (rest.length + 1) rest

/-- Nothing but blanks and a comment after `;` may follow (R52). -/
def atEnd (t : Text) : Bool :=
  match skipBlanks t with
  | [] => true
  | ';' :: _ => true
  | _ => false

/-- The statement, if the line ends where it does. -/
def whenAtEnd (rest : Text) (st : Statement) : Option Statement := if atEnd rest then some st else none

/-- A line that holds a statement (R52, R53). DESIGN CHOICE (log 11): the number of IDLE, for which R53 gives no
spelling, is read in decimal only, of any size. -/
def parseStatement (line : Text) : Option Statement :=
  let t := skipBlanks line
  let name := t.takeWhile (fun c => c.isAlphanum)
  let rest := t.drop name.length
  if name = ['N', 'O', 'P'] then whenAtEnd rest (.command .nop)
  else if name = ['R', 'E', 'S', 'E', 'T'] then whenAtEnd rest (.command .reset)
  else if name = ['S', 'U', 'M'] then whenAtEnd rest (.command .sum)
  else if name = ['W', 'R', 'I', 'T', 'E'] then
    match readByte (skipBlanks rest) with
    | some (v, rest') => whenAtEnd rest' (.command (.write v))
    | none => none
  else if name = ['W', 'R', 'I', 'T', 'E', 'S'] then
    match readMessage rest with
    | some (bytes, rest') => whenAtEnd rest' (.pseudo (.writes bytes))
    | none => none
  else if name = ['C', 'R', 'C', '2', '4'] then
    match readMessage rest with
    | some (bytes, rest') => whenAtEnd rest' (.pseudo (.crc24 bytes))
    | none => none
  else if name = ['I', 'D', 'L', 'E'] then
    match readNumber 10 (skipBlanks rest) with
    | some (n, rest') => whenAtEnd rest' (.pseudo (.idle n))
    | none => none
  else none

/-- The words of a program text, one statement a line; a line with no statement gives none (R52, R48). -/
def assemble : List Text → Option (List CommandWord)
  | [] => some []
  | line :: rest =>
    match (if atEnd line then some [] else (parseStatement line).map Statement.expand), assemble rest with
    | some is, some ws => some (is.map encode ++ ws)
    | _, _ => none

/-! ### Writing -/

/-- `0x` and two upper-case digits, as R48 shows the ignored field. -/
def byteText (v : Byte) : Text := ['0', 'x', hexDigit (v.extractLsb' 4 4), hexDigit (v.extractLsb' 0 4)]

/-- A command in the syntax of R52. DESIGN CHOICE (log 11): of the three spellings of a byte the spec allows, the
operand of WRITE is always printed as `0x` and two upper-case digits. -/
def commandText : Instr → Text
  | .nop => ['N', 'O', 'P']
  | .reset => ['R', 'E', 'S', 'E', 'T']
  | .write v => ['W', 'R', 'I', 'T', 'E', ' '] ++ byteText v
  | .sum => ['S', 'U', 'M']

/-- A word as text; a non-canonical word by its operation, with the ignored field shown, as in
`RESET ; data=0x5A ignored` (R48). -/
def disassemble (w : CommandWord) : Text :=
  if isCanonicalWord w then commandText (decode w)
  else commandText (decode w) ++ [' ', ';', ' ', 'd', 'a', 't', 'a', '='] ++ byteText (dataField w) ++
    [' ', 'i', 'g', 'n', 'o', 'r', 'e', 'd']

end Sys2Proof.Machine
end

