-- ==== Sys2Proof/Machine/Narrow.lean ====
section
/-! DEFINITION. The equivalent engine with 24 flip-flops of `10_state.md` R16. The 32-bit register stays the
normative one (R16, `90_conflicts.md` C8); `step` does not use this file. -/

namespace Sys2Proof.Machine

/-- `XORIN_24(c24, v)` (R16). -/
def xorIn24 (c : Sum24) (v : Byte) : Sum24 := c ^^^ (v.setWidth 24 <<< Config.byteShift)

/-- `SHIFT1_24(c24)` = `((c24 << 1) mod 2^24) ^ (c24[23] ? 0x864CFB : 0)` (R16). -/
def shift1Narrow (c : Sum24) : Sum24 := (c <<< 1) ^^^ (if c.getLsbD 23 then Config.poly24 else 0#24)

/-- The transition for one byte on 24 bits (R16, R58). -/
def byteStep24 (c : Sum24) (v : Byte) : Sum24 := shift1Narrow^[Config.stepsPerByte] (xorIn24 c v)

/-- The state with a 24-bit register; the other fields are those of `State`. -/
structure State24 where
  crc24 : Sum24
  phase : Phase
  program : List Edge
  index : Nat
  returned : List Sum24
deriving DecidableEq, Repr

/-- Drop bits 31 to 24, which no host can see (`00_scope.md` R12). -/
def State.narrow (s : State) : State24 :=
  { crc24 := s.crc.setWidth 24, phase := s.phase, program := s.program, index := s.index, returned := s.returned }

/-- A command on the 24-bit engine (R16 with R59 to R62). -/
def exec24 (i : Instr) (s : State24) : Host.Outcome State24 Fault Refusal :=
  match i, s.phase with
  | .nop, _ => .next s
  | .reset, _ => .next { s with crc24 := 0xB704CE#24, phase := .afterReset }
  | .write _, .beforeReset => .refused .beforeFirstReset
  | .write v, .afterReset => .next { s with crc24 := byteStep24 s.crc24 v }
  | .sum, .beforeReset => .refused .beforeFirstReset
  | .sum, .afterReset => .next { s with returned := s.returned ++ [s.crc24] }

/-- One edge on the 24-bit engine (R50). -/
def step24 (s : State24) : Host.Outcome State24 Fault Refusal :=
  let e := (s.program.drop s.index).headD Edge.idle
  let s' := { s with index := s.index + 1 }
  if e.rst then .next { s' with crc24 := 0xB704CE#24, phase := .afterReset } else exec24 (decode e.cmd) s'

/-- `k` edges on the 24-bit engine, stopping at a refusal. -/
def run24 : Nat → State24 → Host.Outcome State24 Fault Refusal
  | 0, s => .next s
  | k + 1, s =>
    match step24 s with
    | .next s' => run24 k s'
    | .fault r => .fault r
    | .refused r => .refused r

/-- An outcome of the 32-bit engine seen without bits 31 to 24. -/
def narrowOutcome : Host.Outcome State Fault Refusal → Host.Outcome State24 Fault Refusal
  | .next s => .next s.narrow
  | .fault r => .fault r
  | .refused r => .refused r

end Sys2Proof.Machine
end

