-- ==== Sys2Proof/Machine/Platform.lean ====
section
/-! DEFINITION. Several engines side by side (`10_state.md` R26, `60_exceptions.md` R94). Each has its own register
and its own command stream; they share nothing. A layer above the engine: `step` does not use this file. -/

namespace Sys2Proof.Machine

/-- The engines of a platform. -/
structure Platform where
  engines : List State
deriving DecidableEq, Repr

/-- `INSTANCES` freshly reset engines (R94, `00_scope.md` R8; log 9). -/
def Platform.reset : Platform := { engines := List.replicate Config.instanceCount State.reset }

/-- Engine `j` takes one edge. DESIGN CHOICE (log 14): a number no engine has moves nothing; and where engine `j` is
refused a WRITE or SUM before its own first reset (`70_reset_and_hazards.md` R101), the platform's step is refused,
since the spec does not say how that refusal composes over instances. -/
def Platform.stepEngine (p : Platform) (j : Nat) : Host.Outcome Platform Fault Refusal :=
  match p.engines[j]? with
  | none => .next p
  | some s =>
    match step s with
    | .next s' => .next { engines := p.engines.set j s' }
    | .fault r => .fault r
    | .refused r => .refused r

/-- The engines take edges in any interleaving: `schedule` says which moves next. DESIGN CHOICE (log 14): the run of
the WHOLE platform ends at the first refusal of any one engine, and the others, ready or not, take no further edge. -/
def Platform.run (p : Platform) : List Nat → Host.Outcome Platform Fault Refusal
  | [] => .next p
  | j :: schedule =>
    match p.stepEngine j with
    | .next p' => p'.run schedule
    | .fault r => .fault r
    | .refused r => .refused r

end Sys2Proof.Machine
end

