-- ==== Sys2Proof/Machine/Table.lean ====
section
/-! DEFINITION. The table-driven equivalent of `40_operations.md` R69, with the 256 entries as
`95_test_vectors.md` section 2.5 lists them. The bit-serial `byteStep` is the normative one (R69, U3); `step` does
not use this file. -/

namespace Sys2Proof.Machine

/-- The entries T[0] to T[255], eight a row as the spec prints them. -/
def crcTable : List Sum24 :=
  [0x000000#24, 0x864CFB#24, 0x8AD50D#24, 0x0C99F6#24, 0x93E6E1#24, 0x15AA1A#24, 0x1933EC#24, 0x9F7F17#24] ++
  [0xA18139#24, 0x27CDC2#24, 0x2B5434#24, 0xAD18CF#24, 0x3267D8#24, 0xB42B23#24, 0xB8B2D5#24, 0x3EFE2E#24] ++
  [0xC54E89#24, 0x430272#24, 0x4F9B84#24, 0xC9D77F#24, 0x56A868#24, 0xD0E493#24, 0xDC7D65#24, 0x5A319E#24] ++
  [0x64CFB0#24, 0xE2834B#24, 0xEE1ABD#24, 0x685646#24, 0xF72951#24, 0x7165AA#24, 0x7DFC5C#24, 0xFBB0A7#24] ++
  [0x0CD1E9#24, 0x8A9D12#24, 0x8604E4#24, 0x00481F#24, 0x9F3708#24, 0x197BF3#24, 0x15E205#24, 0x93AEFE#24] ++
  [0xAD50D0#24, 0x2B1C2B#24, 0x2785DD#24, 0xA1C926#24, 0x3EB631#24, 0xB8FACA#24, 0xB4633C#24, 0x322FC7#24] ++
  [0xC99F60#24, 0x4FD39B#24, 0x434A6D#24, 0xC50696#24, 0x5A7981#24, 0xDC357A#24, 0xD0AC8C#24, 0x56E077#24] ++
  [0x681E59#24, 0xEE52A2#24, 0xE2CB54#24, 0x6487AF#24, 0xFBF8B8#24, 0x7DB443#24, 0x712DB5#24, 0xF7614E#24] ++
  [0x19A3D2#24, 0x9FEF29#24, 0x9376DF#24, 0x153A24#24, 0x8A4533#24, 0x0C09C8#24, 0x00903E#24, 0x86DCC5#24] ++
  [0xB822EB#24, 0x3E6E10#24, 0x32F7E6#24, 0xB4BB1D#24, 0x2BC40A#24, 0xAD88F1#24, 0xA11107#24, 0x275DFC#24] ++
  [0xDCED5B#24, 0x5AA1A0#24, 0x563856#24, 0xD074AD#24, 0x4F0BBA#24, 0xC94741#24, 0xC5DEB7#24, 0x43924C#24] ++
  [0x7D6C62#24, 0xFB2099#24, 0xF7B96F#24, 0x71F594#24, 0xEE8A83#24, 0x68C678#24, 0x645F8E#24, 0xE21375#24] ++
  [0x15723B#24, 0x933EC0#24, 0x9FA736#24, 0x19EBCD#24, 0x8694DA#24, 0x00D821#24, 0x0C41D7#24, 0x8A0D2C#24] ++
  [0xB4F302#24, 0x32BFF9#24, 0x3E260F#24, 0xB86AF4#24, 0x2715E3#24, 0xA15918#24, 0xADC0EE#24, 0x2B8C15#24] ++
  [0xD03CB2#24, 0x567049#24, 0x5AE9BF#24, 0xDCA544#24, 0x43DA53#24, 0xC596A8#24, 0xC90F5E#24, 0x4F43A5#24] ++
  [0x71BD8B#24, 0xF7F170#24, 0xFB6886#24, 0x7D247D#24, 0xE25B6A#24, 0x641791#24, 0x688E67#24, 0xEEC29C#24] ++
  [0x3347A4#24, 0xB50B5F#24, 0xB992A9#24, 0x3FDE52#24, 0xA0A145#24, 0x26EDBE#24, 0x2A7448#24, 0xAC38B3#24] ++
  [0x92C69D#24, 0x148A66#24, 0x181390#24, 0x9E5F6B#24, 0x01207C#24, 0x876C87#24, 0x8BF571#24, 0x0DB98A#24] ++
  [0xF6092D#24, 0x7045D6#24, 0x7CDC20#24, 0xFA90DB#24, 0x65EFCC#24, 0xE3A337#24, 0xEF3AC1#24, 0x69763A#24] ++
  [0x578814#24, 0xD1C4EF#24, 0xDD5D19#24, 0x5B11E2#24, 0xC46EF5#24, 0x42220E#24, 0x4EBBF8#24, 0xC8F703#24] ++
  [0x3F964D#24, 0xB9DAB6#24, 0xB54340#24, 0x330FBB#24, 0xAC70AC#24, 0x2A3C57#24, 0x26A5A1#24, 0xA0E95A#24] ++
  [0x9E1774#24, 0x185B8F#24, 0x14C279#24, 0x928E82#24, 0x0DF195#24, 0x8BBD6E#24, 0x872498#24, 0x016863#24] ++
  [0xFAD8C4#24, 0x7C943F#24, 0x700DC9#24, 0xF64132#24, 0x693E25#24, 0xEF72DE#24, 0xE3EB28#24, 0x65A7D3#24] ++
  [0x5B59FD#24, 0xDD1506#24, 0xD18CF0#24, 0x57C00B#24, 0xC8BF1C#24, 0x4EF3E7#24, 0x426A11#24, 0xC426EA#24] ++
  [0x2AE476#24, 0xACA88D#24, 0xA0317B#24, 0x267D80#24, 0xB90297#24, 0x3F4E6C#24, 0x33D79A#24, 0xB59B61#24] ++
  [0x8B654F#24, 0x0D29B4#24, 0x01B042#24, 0x87FCB9#24, 0x1883AE#24, 0x9ECF55#24, 0x9256A3#24, 0x141A58#24] ++
  [0xEFAAFF#24, 0x69E604#24, 0x657FF2#24, 0xE33309#24, 0x7C4C1E#24, 0xFA00E5#24, 0xF69913#24, 0x70D5E8#24] ++
  [0x4E2BC6#24, 0xC8673D#24, 0xC4FECB#24, 0x42B230#24, 0xDDCD27#24, 0x5B81DC#24, 0x57182A#24, 0xD154D1#24] ++
  [0x26359F#24, 0xA07964#24, 0xACE092#24, 0x2AAC69#24, 0xB5D37E#24, 0x339F85#24, 0x3F0673#24, 0xB94A88#24] ++
  [0x87B4A6#24, 0x01F85D#24, 0x0D61AB#24, 0x8B2D50#24, 0x145247#24, 0x921EBC#24, 0x9E874A#24, 0x18CBB1#24] ++
  [0xE37B16#24, 0x6537ED#24, 0x69AE1B#24, 0xEFE2E0#24, 0x709DF7#24, 0xF6D10C#24, 0xFA48FA#24, 0x7C0401#24] ++
  [0x42FA2F#24, 0xC4B6D4#24, 0xC82F22#24, 0x4E63D9#24, 0xD11CCE#24, 0x575035#24, 0x5BC9C3#24, 0xDD8538#24]

/-- `T[i]`. -/
def tableEntry (i : Byte) : Sum24 := crcTable.getD i.toNat 0#24

/-- `((c << 8) & 0x00FFFFFF) ^ T[(c >> 16) ^ v]` (R69), for `c` with bits 31 to 24 zero. -/
def byteStepByTable (c : Word) (v : Byte) : Word :=
  ((c <<< 8) &&& Config.sumMask) ^^^ (tableEntry ((c >>> 16).setWidth 8 ^^^ v)).setWidth 32

end Sys2Proof.Machine
end

