-- ==== Sys2Proof/Machine/Tool.lean ====
section
/-! DEFINITION. The command-line tool around the engine (`41_host_boundary.md` R76 to R84). HOST SIDE: outside the
hardware (`00_scope.md` R5), added on top of it; `step` does not use this file. -/

namespace Sys2Proof.Machine

/-- A flag of the tool (R82). -/
inductive Flag where
  /-- `-b` or `--base64`. -/
  | base64
  /-- `-h` or `--help`. -/
  | help
deriving DecidableEq, Repr

/-- The spellings of R82. An argument of any other spelling has no meaning in the spec (log 13). -/
def Flag.parse (arg : Text) : Option Flag :=
  if arg = ['-', 'b'] ∨ arg = ['-', '-', 'b', 'a', 's', 'e', '6', '4'] then some .base64
  else if arg = ['-', 'h'] ∨ arg = ['-', '-', 'h', 'e', 'l', 'p'] then some .help
  else none

/-- What one read of the input source gives (R76, R83). -/
inductive ReadEvent where
  /-- Some bytes, any number of them. -/
  | chunk (bytes : List Byte)
  /-- A read failure; it is not retried. -/
  | failure
deriving DecidableEq, Repr

/-- What the tool does in the end. The wording of the usage and error texts is not in the source (R82), so the
results are named and not spelled. -/
inductive ToolResult where
  /-- The usage text was printed and the input not read. -/
  | usage
  /-- The checksum line was printed. -/
  | printed (line : Text)
  /-- An error message went to the error stream and no checksum was printed. -/
  | readFailed
deriving DecidableEq, Repr

/-- Exit code 1 if reading the input fails, else 0 (R82). -/
def ToolResult.exitCode : ToolResult → Nat
  | .usage => 0
  | .printed _ => 0
  | .readFailed => 1

/-- What the host has read when it stops reading. -/
structure Reading where
  /-- The chunks received, in order. -/
  chunks : List (List Byte)
  /-- Whether reading ended in a failure and not at the end of the input. -/
  failed : Bool
deriving DecidableEq, Repr

/-- Reading to the end of the input or to the first failure, which is not retried: nothing after it is read (R83). -/
def readInput : List ReadEvent → Reading
  | [] => { chunks := [], failed := false }
  | .chunk bytes :: rest => { chunks := bytes :: (readInput rest).chunks, failed := (readInput rest).failed }
  | .failure :: _ => { chunks := [], failed := true }

/-- The caller's control flow: construct the engine, feed it every chunk received, and read the final sum once the
input is exhausted (R54, R76, R77, R102). After a read failure the sum is not asked for (R83; log 13). A gap
between chunks may become NOP cycles or nothing (R76): here it is always nothing (DESIGN CHOICE, log 13). -/
def readingCalls (r : Reading) : List Call :=
  .construct :: (r.chunks.map Call.write ++ if r.failed then [] else [.sum])

/-- The edges of the caller's control flow. -/
def readingEdges (r : Reading) : List Edge := (readingCalls r).flatMap Call.edges

/-- The ENGINE after it has run the caller's edges. After a read failure it holds the checksum of the bytes written
before the failure (R83): it takes no part in the error (R97). -/
def toolEngine (input : List ReadEvent) : Host.Outcome State Fault Refusal :=
  runFor (readingEdges (readInput input)).length (State.reset.load (readingEdges (readInput input)))

/-- The line of the chosen mode (R78, R79). -/
def renderLine (flags : List Flag) (s : Sum24) : Text :=
  if Flag.base64 ∈ flags then base64Line s else hexLine s

/-- What the tool does once the engine stands at `s`: report the read failure and print nothing else (R83), or print
the last sum the engine returned. -/
def reportFrom (flags : List Flag) (failed : Bool) (s : State) : Option ToolResult :=
  if failed then some .readFailed else s.returned.getLast?.map (fun v => .printed (renderLine flags v))

/-- The tool on parsed flags and an input (R82, R83; log 13). Help comes before any reading (R82). `none` would mean
that the engine gave no sum. -/
def runTool (flags : List Flag) (input : List ReadEvent) : Option ToolResult :=
  if Flag.help ∈ flags then some .usage
  else
    match toolEngine input with
    | .next s => reportFrom flags (readInput input).failed s
    | .fault _ => none
    | .refused _ => none

end Sys2Proof.Machine
end

