-- ==== Sys2Proof/Safety.lean ====
section
/-! DEFINITION. What claims about the engine are stated in: a machine that is ready (its runs cannot stop, R85)
and the invariant of the register. Runs are `runFor`. -/

namespace Sys2Proof.Machine

/-- A reset has happened, so every command has a meaning (`60_exceptions.md` R85, `70_reset_and_hazards.md` R102). -/
def State.ready (s : State) : Bool := s.phase == .afterReset

/-- Bits 31 to 24 of `CRC` are zero (`10_state.md` R15). -/
def upperBitsZero (c : Word) : Bool := c.extractLsb' 24 8 == 0#8

/-- The invariant of R15: after the first reset, bits 31 to 24 of `CRC` are zero. Before it nothing is said of the
content (R101). It is a fact about the normative 32-bit state, not about an implementation (`92_eei_decisions.md` D2). -/
def State.registerInvariant (s : State) : Bool := !s.ready || upperBitsZero s.crc

end Sys2Proof.Machine
end

