-- ==== Sys2Proof/Certificates/Slice0/Obligations.lean ====
section
/-! DEFINITION. The statements for the provers. Rules R<n> are those of `spec/`. -/

open Sys2Proof Sys2Proof.Machine

/-! ### Encoding (`30_encoding.md`) -/

/-- Decoding an encoded command gives it back, through the port and through the number the opcode table writes;
and a word is the encoding of what it decodes to exactly when it is canonical (R44, R46, R48). -/
def Obligations.DecodeInvertsEncode : Prop :=
  (∀ i : Instr, i.wellFormed = true →
    decode (encode i) = i ∧ decodeTableWord 16 (encode i).toNat = some i) ∧
  ∀ w : CommandWord, encode (decode w) = w ↔ isCanonicalWord w = true

/-- R46: the two bits `cmd[9:8]` select the operation, and `cmd[7:0]` is the byte of WRITE. -/
def Obligations.OpFieldSelectsTheOperation : Prop :=
  ∀ w : CommandWord,
    (w.extractLsb' 8 2 = 0b00#2 → decode w = .nop) ∧
    (w.extractLsb' 8 2 = 0b01#2 → decode w = .reset) ∧
    (w.extractLsb' 8 2 = 0b10#2 → decode w = .write (w.extractLsb' 0 8)) ∧
    (w.extractLsb' 8 2 = 0b11#2 → decode w = .sum)

/-- The words of `95_test_vectors.md` section 2.6, written out bit by bit. -/
def Obligations.WrittenOutWordsDecode : Prop :=
  decode 0b0000000000#10 = .nop ∧ decode 0b0011111111#10 = .nop ∧
  decode 0b0100000000#10 = .reset ∧ decode 0b0101011010#10 = .reset ∧
  decode 0b1000000000#10 = .write 0x00#8 ∧ decode 0b1001100001#10 = .write 0x61#8 ∧
  decode 0b1011111111#10 = .write 0xFF#8 ∧
  decode 0b1100000000#10 = .sum ∧ decode 0b1111111111#10 = .sum

/-- R47: no word is illegal (every number below 1024 decodes); `data` is ignored by NOP, RESET and SUM, also in what
they DO; and of the 1024 words 256 are NOP, 256 RESET, 256 SUM and 256 WRITE, one per byte value. -/
def Obligations.EveryWordIsACommand : Prop :=
  (∀ w : Nat, w < 1024 → ∃ i, decodeTableWord 16 w = some i) ∧
  (∀ (op : BitVec 2) (d d' : Byte) (s : State), op ≠ 0b10#2 →
    decode (wordOf op d) = decode (wordOf op d') ∧
    executeEdge { rst := false, cmd := wordOf op d } s = executeEdge { rst := false, cmd := wordOf op d' } s) ∧
  ((List.finRange 1024).filter (fun w => decode (BitVec.ofFin w) == .nop)).length = 256 ∧
  ((List.finRange 1024).filter (fun w => decode (BitVec.ofFin w) == .reset)).length = 256 ∧
  ((List.finRange 1024).filter (fun w => decode (BitVec.ofFin w) == .sum)).length = 256 ∧
  ∀ v : Byte, ∃! w : CommandWord, decode w = .write v

/-- The canonical words, and that a word behaves as the canonical word of its operation (R48); and how a disassembler
prints a non-canonical word: R48's one example, and for every such word the same spelling, which is the model's choice
(log 11). -/
def Obligations.CanonicalWords : Prop :=
  encode .nop = 0x000#10 ∧ encode .reset = 0x100#10 ∧ encode .sum = 0x300#10 ∧
  (∀ v : Byte, encode (.write v) = 0x200#10 + v.setWidth 10) ∧
  disassemble 0x15A#10 = ['R', 'E', 'S', 'E', 'T', ' ', ';', ' ', 'd', 'a', 't', 'a', '=', '0', 'x', '5', 'A', ' ',
    'i', 'g', 'n', 'o', 'r', 'e', 'd'] ∧
  (∀ w : CommandWord, isCanonicalWord w = false →
    disassemble w = commandText (decode w) ++ [' ', ';', ' ', 'd', 'a', 't', 'a', '='] ++
      byteText (w.extractLsb' 0 8) ++ [' ', 'i', 'g', 'n', 'o', 'r', 'e', 'd']) ∧
  ∀ (w : CommandWord) (s : State),
    executeEdge { rst := false, cmd := w } s = executeEdge { rst := false, cmd := encode (decode w) } s

/-- The assembler reads every line the disassembler prints, canonical word or not, as the command the word is
(R48, R52; the reading of spellings rests on log 11). -/
def Obligations.AssemblerReadsDisassembly : Prop :=
  ∀ w : CommandWord, parseStatement (disassemble w) = some (.command (decode w))

/-- The expansions of the pseudo-instructions (R53) and the edges of the source's calls (R54), seen through the
decoder. -/
def Obligations.SequencesExpandToCommands : Prop :=
  (∀ bytes : List Byte,
    (Pseudo.writes bytes).expand = bytes.map Instr.write ∧
    (Pseudo.crc24 bytes).expand = .reset :: (Pseudo.writes bytes).expand ++ [.sum] ∧
    (Call.write bytes).edges.map (fun e => (e.rst, decode e.cmd)) = bytes.map (fun v => (false, Instr.write v))) ∧
  (∀ n : Nat, (Pseudo.idle n).expand.length = n ∧ ∀ i ∈ (Pseudo.idle n).expand, i = .nop) ∧
  Call.reset.edges.map (fun e => (e.rst, decode e.cmd)) = [(false, Instr.reset)] ∧
  Call.sum.edges.map (fun e => (e.rst, decode e.cmd)) = [(false, Instr.sum)] ∧
  Call.construct.edges.map (fun e => e.rst) = [true]

/-! ### The primitives (`40_operations.md` R55 to R58, R69) -/

/-- R55: `XORIN` changes bits 23 to 16 only, each by the byte's bit; it is the identity for the byte zero and its own
inverse. -/
def Obligations.XorInChangesOnlyBits23To16 : Prop :=
  (∀ (c : Word) (v : Byte),
    xorIn c v = c ^^^ (v.setWidth 32 <<< 16) ∧
    (∀ i : Nat, i < 8 → (xorIn c v).getLsbD (16 + i) = (c.getLsbD (16 + i) ^^ v.getLsbD i)) ∧
    (∀ k : Nat, k < 16 ∨ 24 ≤ k → (xorIn c v).getLsbD k = c.getLsbD k) ∧
    xorIn c 0x00#8 = c ∧ xorIn (xorIn c v) v = c) ∧
  xorIn 0x00B704CE#32 0x61#8 = 0x00D604CE#32

/-- R56: the shift-and-reduce step, with the rule's four examples. -/
def Obligations.ShiftStepTestsTheShiftedValue : Prop :=
  (∀ c : Word,
    ((c <<< 1) &&& 0x01000000#32 ≠ 0#32 ↔ c.getLsbD 23 = true) ∧
    ((c <<< 1) &&& 0x01000000#32 = 0#32 → shift1 c = c <<< 1) ∧
    ((c <<< 1) &&& 0x01000000#32 ≠ 0#32 →
      shift1 c = (c <<< 1) ^^^ 0x01864CFB#32 ∧ (shift1 c).getLsbD 24 = false)) ∧
  shift1 0x00400000#32 = 0x00800000#32 ∧ shift1 0x00800000#32 = 0x00864CFB#32 ∧
  shift1 0x00B704CE#32 = 0x00E84567#32 ∧ shift1 0#32 = 0#32

/-- R57: the step bit by bit, the feedback taps, and linearity over GF(2). -/
def Obligations.ShiftStepFollowsTheTaps : Prop :=
  (∀ c : Word,
    (shift1 c).getLsbD 0 = c.getLsbD 23 ∧
    (∀ k ∈ [1, 3, 4, 5, 6, 7, 10, 11, 14, 17, 18, 23],
      (shift1 c).getLsbD k = (c.getLsbD (k - 1) ^^ c.getLsbD 23)) ∧
    (∀ k ∈ [2, 8, 9, 12, 13, 15, 16, 19, 20, 21, 22], (shift1 c).getLsbD k = c.getLsbD (k - 1)) ∧
    (shift1 c).getLsbD 24 = false ∧
    (∀ k : Nat, 25 ≤ k → k ≤ 31 → (shift1 c).getLsbD k = c.getLsbD (k - 1))) ∧
  (∀ k : Nat, (0x864CFB#24).getLsbD k = true ↔ k ∈ [23, 18, 17, 14, 11, 10, 7, 6, 5, 4, 3, 1, 0]) ∧
  (∀ a b : Word, shift1 (a ^^^ b) = shift1 a ^^^ shift1 b) ∧ shift1 0#32 = 0#32

/-- R58 with R57: the whole transition is linear over GF(2) in the register and the byte together. -/
def Obligations.ByteStepIsLinear : Prop :=
  ∀ (a b : Word) (u v : Byte), byteStep (a ^^^ b) (u ^^^ v) = byteStep a u ^^^ byteStep b v

/-- R69: each of the 256 entries the spec lists is `SHIFT1^8(i << 16) & 0x00FFFFFF`, and the lookup formula is the
bit-serial transition on every register value with bits 31 to 24 zero. -/
def Obligations.TableLookupEqualsBitLoop : Prop :=
  (∀ i : Byte, tableEntry i = (shift1^[8] (i.setWidth 32 <<< 16) &&& 0x00FFFFFF#32).setWidth 24) ∧
  ∀ (c : Word) (v : Byte), c.toNat < 2 ^ 24 → byteStepByTable c v = byteStep c v

/-! ### The commands (`40_operations.md` R59 to R62) -/

/-- R59: RESET writes all 32 bits from every prior state, and nothing else changes (`phase` is the model's own mark
of R101, log 1). -/
def Obligations.ResetSetsInitial : Prop :=
  encode .reset = 0x100#10 ∧
  (∀ s : State, exec .reset s = .next { s with crc := 0x00B704CE#32, phase := .afterReset }) ∧
  exec .reset State.reset = .next State.reset

/-- R60: WRITE completes in every ready state, for every byte, with the register after one XOR and eight steps and
nothing else changed; with the rule's corner cases. -/
def Obligations.WriteAppliesTheTransition : Prop :=
  (∀ v : Byte, encode (.write v) = 0x200#10 + v.setWidth 10) ∧
  (∀ (v : Byte) (s : State), s.phase = .afterReset →
    exec (.write v) s = .next { s with crc := shift1^[8] (xorIn s.crc v) }) ∧
  byteStep 0x00B704CE#32 0x00#8 = 0x006169D3#32 ∧
  (∀ c : Word, c.setWidth 24 = 0#24 → byteStep c 0x00#8 = 0#32) ∧
  writeAll 0x00B704CE#32 [0xB7#8, 0x04#8, 0xCE#8] = 0#32 ∧
  (∀ c : Word, byteStep c (c.extractLsb' 16 8) = (c.setWidth 16).setWidth 32 <<< 8) ∧
  (∃ (c : Word) (v : Byte), byteStep (byteStep c v) v ≠ byteStep c v) ∧
  (∀ (c : Word) (v : Byte), (byteStep c v).extractLsb' 24 8 = 0#8) ∧
  (∀ (c c' : Word) (v : Byte), c.setWidth 24 = c'.setWidth 24 → byteStep c v = byteStep c' v) ∧
  byteStep 0x00B704CE#32 0x61#8 = 0x00F25713#32

/-- R61: SUM completes in every ready state; the host receives bits 23 to 0 and nothing else changes, the register
least of all; also where bits 31 to 24 are not zero. -/
def Obligations.SumReturnsTheLowBits : Prop :=
  encode .sum = 0x300#10 ∧
  (∀ s : State, s.phase = .afterReset →
    exec .sum s = .next { s with returned := s.returned ++ [s.crc.extractLsb' 0 24] }) ∧
  maskedSum 0xFF123456#32 = 0x123456#24 ∧ maskedSum 0x00F25713#32 = 0xF25713#24

/-- NOP completes in every state and changes nothing (R62, R101). -/
def Obligations.NopChangesNothing : Prop :=
  encode .nop = 0x000#10 ∧ ∀ s : State, exec .nop s = .next s

/-- R62: NOP changes nothing, and leaving the NOPs out of a program changes no SUM value and no final register,
whatever the state it starts in and whatever else it holds. -/
def Obligations.NopsAnywhereChangeNoResult : Prop :=
  encode .nop = 0x000#10 ∧
  (∀ s : State, exec .nop s = .next s) ∧
  ∀ (s : State) (p : List Edge),
    match runFor p.length (s.load p),
      runFor (p.filter (fun e => !e.isNop)).length (s.load (p.filter (fun e => !e.isNop))) with
    | .next t, .next t' => t.crc = t'.crc ∧ t.phase = t'.phase ∧ t.returned = t'.returned
    | .refused r, .refused r' => r = r'
    | _, _ => False

/-- R101: before the first reset WRITE and SUM are refused and the port has no value; RESET and the hardware reset
have their meaning; NOP leaves the content as it is. -/
def Obligations.BeforeTheFirstReset : Prop :=
  ∀ s : State, s.phase = .beforeReset →
    (∀ v : Byte, exec (.write v) s = .refused .beforeFirstReset) ∧
    exec .sum s = .refused .beforeFirstReset ∧
    s.sumPort = none ∧
    exec .reset s = .next { s with crc := 0x00B704CE#32, phase := .afterReset } ∧
    hardwareReset s = { s with crc := 0x00B704CE#32, phase := .afterReset } ∧
    exec .nop s = .next s

/-! ### Edges and steps (`30_encoding.md` R50, R51) -/

/-- R50: with `rst` = 0 a step is the execution of the decoded word, the host's index moved on; with `rst` = 1 it is
the hardware reset, whatever the word; and a word placed on the port is the one executed. -/
def Obligations.StepRunsThePresentedCommand : Prop :=
  (∀ s : State, s.presented.rst = false →
    step s = exec (decode s.presented.cmd) { s with index := s.index + 1 }) ∧
  (∀ s : State, s.presented.rst = true →
    step s = .next { s with crc := 0x00B704CE#32, phase := .afterReset, index := s.index + 1 }) ∧
  ∀ (s : State) (i : Instr), step (s.withFetchWord 16 (encode i).toNat) =
    exec i { s.withFetchWord 16 (encode i).toNat with index := s.index + 1 }

/-- When the host's list is exhausted an edge is a NOP (the model's reading of "NOP when the host has nothing to
do", R50; log 3), in every phase. -/
def Obligations.ExhaustedProgramIdles : Prop :=
  ∀ s : State, s.program.length ≤ s.index → step s = .next { s with index := s.index + 1 }

/-- R99, with R87: the hardware reset wins over any word, also over a SUM, which is then not executed and returns nothing;
holding `rst` high for k edges is k times the same assignment; its effect is that of RESET. -/
def Obligations.HardwareResetWins : Prop :=
  (∀ (w : CommandWord) (s : State),
    executeEdge (Edge.withReset w) s = .next { s with crc := 0x00B704CE#32, phase := .afterReset } ∧
    executeEdge (Edge.withReset w) s = exec .reset s) ∧
  ∀ (s : State) (k : Nat) (w : CommandWord) (rest : List Edge),
    s.upcoming = List.replicate (k + 1) (Edge.withReset w) ++ rest →
    runFor (k + 1) s =
      .next { s with crc := 0x00B704CE#32, phase := .afterReset, index := s.index + (k + 1) }

/-- R14: what each kind of edge writes, and that the host's list stays and its index moves by one (R17). -/
def Obligations.OnlyWriteResetAndRstWriteTheRegister : Prop :=
  ∀ s t : State, step s = .next t →
    t.program = s.program ∧ t.index = s.index + 1 ∧
    (s.presented.rst = true → t.crc = 0x00B704CE#32 ∧ t.returned = s.returned) ∧
    (s.presented.rst = false →
      (decode s.presented.cmd = .reset → t.crc = 0x00B704CE#32 ∧ t.returned = s.returned) ∧
      (∀ v, decode s.presented.cmd = .write v → t.crc = byteStep s.crc v ∧ t.returned = s.returned) ∧
      (decode s.presented.cmd = .sum → t.crc = s.crc ∧ t.returned = s.returned ++ [maskedSum s.crc]) ∧
      (decode s.presented.cmd = .nop → t.crc = s.crc ∧ t.returned = s.returned))

/-- R110, with R51: after the first reset the port shows `CRC[23:0]` whatever is presented; a SUM returns what the port
shows in its cycle; while `rst` is 1 the port still shows the old content, and `0xB704CE` from the next cycle on;
before the first reset it has no specified value. -/
def Obligations.SumPortShowsTheRegister : Prop :=
  (∀ s : State, s.phase = .afterReset → s.sumPort = some (s.crc.extractLsb' 0 24)) ∧
  (∀ (s : State) (p : List Edge) (n : Nat), ({ s with program := p, index := n } : State).sumPort = s.sumPort) ∧
  (∀ s t : State, s.presented.rst = false → decode s.presented.cmd = .sum → step s = .next t →
    ∃ v, s.sumPort = some v ∧ t.returned = s.returned ++ [v] ∧ t.sumPort = some v) ∧
  (∀ s t : State, s.presented.rst = true → step s = .next t → t.sumPort = some 0xB704CE#24) ∧
  ∀ s : State, s.phase = .beforeReset → s.sumPort = none

/-- R36, R25: over any stretch of edges with no WRITE, no RESET and no hardware reset, the register keeps its value
and every SUM of the stretch returns the same value; RESET is idempotent; WRITE is not. -/
def Obligations.ReadingHasNoSideEffect : Prop :=
  (∀ (s : State) (p rest : List Edge), s.phase = .afterReset → s.upcoming = p ++ rest →
    (∀ e ∈ p, e.rst = false ∧ (decode e.cmd = .nop ∨ decode e.cmd = .sum)) →
    runFor p.length s = .next { s with
      index := s.index + p.length,
      returned := s.returned ++ List.replicate (p.countP (fun e => decode e.cmd == .sum)) (maskedSum s.crc) }) ∧
  (∀ s t : State, exec .reset s = .next t → exec .reset t = .next t) ∧
  ∃ (v : Byte) (s t u : State),
    exec (.write v) s = .next t ∧ exec (.write v) t = .next u ∧ t.sumPort ≠ u.sumPort

/-! ### The whole machine -/

/-- R85 (`phase` is log 1): after the first reset every run of any length completes and stays ready. A step never
faults, and it is refused only for a WRITE or a SUM before the first reset. -/
def Obligations.ReadyMachineNeverStops : Prop :=
  (∀ (s : State) (k : Nat), s.phase = .afterReset →
    ∃ t, runFor k s = .next t ∧ t.phase = .afterReset ∧ t.index = s.index + k) ∧
  (∀ (s : State) (r : Fault), step s ≠ .fault r) ∧
  ∀ (s : State) (r : Refusal), step s = .refused r →
    r = .beforeFirstReset ∧ s.phase = .beforeReset ∧ s.presented.rst = false ∧
      (decode s.presented.cmd = .sum ∨ ∃ v, decode s.presented.cmd = .write v)

/-- The invariant of R15 is kept by every step, from every state that meets it. -/
def Obligations.StepKeepsUpperBitsZero : Prop :=
  ∀ s t : State, s.registerInvariant = true → step s = .next t → t.registerInvariant = true

/-- The state after reset meets the invariant (R15, R22). -/
def Obligations.ResetMeetsUpperBitsZero : Prop := State.reset.registerInvariant = true

/-- R15: bits 31 to 24 are zero in every state a run from reset reaches, for every program the host may load, and
after any WRITE from any 32-bit value. -/
def Obligations.ReachableUpperBitsAreZero : Prop :=
  (∀ (p : List Edge) (k : Nat) (t : State), runFor k (State.reset.load p) = .next t → upperBitsZero t.crc = true) ∧
  ∀ (c : Word) (v : Byte), upperBitsZero (byteStep c v) = true

/-- R22: the value of every piece of state after each kind of reset, and none before the first. -/
def Obligations.ResetValues : Prop :=
  (∀ s t : State, exec .reset s = .next t →
    t.crc = 0x00B704CE#32 ∧ t.sumPort = some 0xB704CE#24 ∧ t.crc.extractLsb' 24 8 = 0#8) ∧
  (∀ s : State, (hardwareReset s).crc = 0x00B704CE#32 ∧ (hardwareReset s).sumPort = some 0xB704CE#24 ∧
    (hardwareReset s).crc.extractLsb' 24 8 = 0#8) ∧
  State.reset.crc = 0x00B704CE#32 ∧ State.reset.sumPort = some 0xB704CE#24 ∧
  ∀ (content : Word) (s : State), (powerOn content s).sumPort = none

/-- R66: RESET and then SUM returns `0xB704CE` from every state, reachable or not, reset before or not. -/
def Obligations.ResetThenSumReturnsInitial : Prop :=
  ∀ (s : State) (e e' : Edge) (rest : List Edge), s.upcoming = e :: e' :: rest →
    e.rst = false → decode e.cmd = .reset → e'.rst = false → decode e'.cmd = .sum →
    runFor 2 s = .next { s with
      crc := 0x00B704CE#32, phase := .afterReset, index := s.index + 2, returned := s.returned ++ [0xB704CE#24] }

/-- What the register held before the first reset is never observed: two runs that differ in that content alone are
refused alike, or end in the same state, or still differ in that content alone (R66, R101, U2). -/
def Obligations.PowerOnContentIsNeverObserved : Prop :=
  ∀ (s : State) (c c' : Word) (k : Nat),
    match runFor k (powerOn c s), runFor k (powerOn c' s) with
    | .next t, .next t' =>
      (t.phase = .afterReset ∧ t = t') ∨ (∃ u, t = powerOn c u ∧ t' = powerOn c' u)
    | .refused r, .refused r' => r = r'
    | _, _ => False

/-- R16: the engine with 24 flip-flops takes the same course as the 32-bit engine, for every number of edges from
every state; so the two return the same values. -/
def Obligations.NarrowEngineAgrees : Prop :=
  (∀ c : Word, (shift1 c).setWidth 24 = shift1Narrow (c.setWidth 24)) ∧
  (∀ (c : Word) (v : Byte), (xorIn c v).setWidth 24 = xorIn24 (c.setWidth 24) v) ∧
  ∀ (k : Nat) (s : State), narrowOutcome (runFor k s) = run24 k s.narrow

/-- R24: over ANY edges, with reads, idle cycles, resets of both kinds and non-canonical words anywhere, every value
a SUM returns is the checksum of the bytes written since the last reset before it, and the register at the end is
that of the bytes since the last reset. -/
def Obligations.EverySumIsTheChecksumSinceReset : Prop :=
  ∀ (s : State) (sofar : List Byte) (p rest : List Edge), s.phase = .afterReset →
    s.crc = writeAll 0x00B704CE#32 sofar → s.upcoming = p ++ rest →
    ∃ t, runFor p.length s = .next t ∧
      t.crc = writeAll 0x00B704CE#32 (bytesSinceReset sofar p) ∧
      t.sumPort = some (checksum (bytesSinceReset sofar p)) ∧
      t.returned = s.returned ++ owedSums sofar p

/-- R63: `G`, `F`, and that `F(B)` is what SUM returns after a RESET and the bytes of `B`, from any state whatever;
it takes one edge per byte and two more. -/
def Obligations.WholeMessageChecksum : Prop :=
  (∀ c : Word, writeAll c [] = c) ∧
  (∀ (c : Word) (bytes : List Byte) (v : Byte),
    writeAll c (bytes ++ [v]) = byteStep (writeAll c bytes) v) ∧
  (∀ bytes : List Byte, checksum bytes = (writeAll 0x00B704CE#32 bytes &&& 0x00FFFFFF#32).setWidth 24) ∧
  ∀ (s : State) (bytes : List Byte) (rest : List Edge),
    s.upcoming = (Pseudo.crc24 bytes).expand.map Edge.ofInstr ++ rest →
    runFor (bytes.length + 2) s = .next { s with
      crc := writeAll 0x00B704CE#32 bytes, phase := .afterReset, index := s.index + (bytes.length + 2),
      returned := s.returned ++ [checksum bytes] }

/-- R64: how a message is cut into calls of `write`, empty ones included, and what reads and idle cycles stand
between, changes neither the register nor the sum, from every ready state. -/
def Obligations.ChunkingDoesNotMatter : Prop :=
  (∀ (c : Word) (b1 b2 : List Byte), writeAll c (b1 ++ b2) = writeAll (writeAll c b1) b2) ∧
  (∀ (s : State) (chunks : List (List Byte)),
    runFor chunks.flatten.length (s.load (chunks.flatMap (fun b => (Call.write b).edges))) =
      runFor chunks.flatten.length (s.load (Call.write chunks.flatten).edges)) ∧
  ∀ (s : State) (p q : List Edge), s.phase = .afterReset →
    (∀ e ∈ p ++ q, e.rst = false ∧ decode e.cmd ≠ .reset) → bytesSinceReset [] p = bytesSinceReset [] q →
    ∃ t u, runFor p.length (s.load p) = .next t ∧ runFor q.length (s.load q) = .next u ∧
      t.crc = u.crc ∧ t.sumPort = u.sumPort

/-- R103: a second message after a RESET has its own checksum; without the RESET its sum is that of the two messages
joined, and nothing stops. -/
def Obligations.SecondMessageNeedsAReset : Prop :=
  ∀ (s : State) (a b : List Byte),
    let first := (Pseudo.crc24 a).expand.map Edge.ofInstr
    let separate := first ++ (Pseudo.crc24 b).expand.map Edge.ofInstr
    let joined := first ++ (Call.write b).edges ++ Call.sum.edges
    (∃ t, runFor separate.length (s.load separate) = .next t ∧
      t.returned = s.returned ++ [checksum a, checksum b]) ∧
    ∃ t, runFor joined.length (s.load joined) = .next t ∧
      t.returned = s.returned ++ [checksum a, checksum (a ++ b)]

/-- R65: two ready engines with the same sum that are given the same edges return the same values and show the same
sum, whatever differs otherwise: their history, their place in it, and bits 31 to 24 of the register. -/
def Obligations.SameInputSameResults : Prop :=
  ∀ (s s' : State) (k : Nat), s.phase = .afterReset → s'.phase = .afterReset →
    maskedSum s.crc = maskedSum s'.crc → s.upcoming = s'.upcoming →
    ∃ t t' vs, runFor k s = .next t ∧ runFor k s' = .next t' ∧
      t.returned = s.returned ++ vs ∧ t'.returned = s'.returned ++ vs ∧ t.sumPort = t'.sumPort

/-- R67, R68: the sum of the empty message and of the single byte zero; with the other messages of
`95_test_vectors.md` sections 2.3, 2.4 and P4c. -/
def Obligations.KnownChecksums : Prop :=
  checksum [] = 0xB704CE#24 ∧ checksum [0x00#8] = 0x6169D3#24 ∧
  checksum [0x61#8, 0x62#8, 0x63#8] = 0xBA1C7B#24 ∧
  checksum [0x31#8, 0x32#8, 0x33#8, 0x34#8, 0x35#8, 0x36#8, 0x37#8, 0x38#8, 0x39#8] = 0x21CF02#24 ∧
  checksum [0x61#8, 0x31#8, 0x62#8, 0x32#8] = 0xB4DC37#24

/-- R75: writing the three bytes of the register, most significant first, leaves zero; so a message followed by its
own checksum sums to zero. -/
def Obligations.AppendingTheSumGivesZero : Prop :=
  (∀ (s : State) (rest : List Edge), s.phase = .afterReset → upperBitsZero s.crc = true →
    s.upcoming = (Call.write [s.crc.extractLsb' 16 8, s.crc.extractLsb' 8 8, s.crc.extractLsb' 0 8]).edges ++ rest →
    runFor 3 s = .next { s with crc := 0#32, index := s.index + 3 }) ∧
  ∀ bytes : List Byte, checksum (bytes ++ sumBytes (checksum bytes)) = 0#24

/-- R26, R94: on a platform each engine ends where its own edges take it, however the engines are interleaved; nothing
one engine does reaches another. A platform starts with at least one engine, each reset (R8,
log 9). That EVERY schedule completes rests on the model's choice that a number no engine has moves nothing (log 14). -/
def Obligations.EnginesShareNothing : Prop :=
  (1 ≤ Platform.reset.engines.length ∧ ∀ s ∈ Platform.reset.engines, s = State.reset) ∧
  ∀ (p : Platform) (schedule : List Nat), (∀ s ∈ p.engines, s.phase = .afterReset) →
    ∃ q, p.run schedule = .next q ∧ q.engines.length = p.engines.length ∧
      ∀ (j : Nat) (s : State), p.engines[j]? = some s →
        ∃ t, runFor (schedule.count j) s = .next t ∧ q.engines[j]? = some t

/-! ### The host's side (`20_memory.md` R32, `41_host_boundary.md`) -/

/-- R32, R81, under the alphabets of log 12: both renderings read back to the sum: the hexadecimal line as the same
integer, the base64 line as the three bytes, most significant first; so each rendering is injective. -/
def Obligations.RenderingsReadBack : Prop :=
  (∀ s : Sum24, sumBytes s = [(s >>> 16).setWidth 8, (s >>> 8).setWidth 8, s.setWidth 8] ∧
    sumOfBytes (sumBytes s) = some s) ∧
  (∀ s : Sum24, readHexLine (hexLine s) = some s.toNat) ∧
  (∀ s : Sum24, readBase64Line (base64Line s) = some (sumBytes s)) ∧
  (∀ s s' : Sum24, hexLine s = hexLine s' → s = s') ∧
  ∀ s s' : Sum24, base64Line s = base64Line s' → s = s'

/-- R76, R77, R82, R83, on the readings of log 13: with no help flag and no read failure the tool prints the rendered
checksum of the whole input, however it is chunked; a read failure anywhere prints no checksum and exits with 1; help
reads nothing and exits with 0. -/
def Obligations.ToolPrintsTheChecksum : Prop :=
  (∀ (flags : List Flag) (chunks : List (List Byte)), Flag.help ∉ flags →
    runTool flags (chunks.map ReadEvent.chunk) = some (.printed (renderLine flags (checksum chunks.flatten)))) ∧
  (∀ (flags : List Flag) (input : List ReadEvent), Flag.help ∉ flags → ReadEvent.failure ∈ input →
    runTool flags input = some .readFailed ∧ ToolResult.readFailed.exitCode = 1) ∧
  (∀ (flags : List Flag) (input : List ReadEvent), Flag.help ∈ flags →
    runTool flags input = some .usage ∧ ToolResult.usage.exitCode = 0) ∧
  ∀ line : Text, (ToolResult.printed line).exitCode = 0

/-- R83, on the control flow of log 13: at a read failure, wherever it stands, the tool reports it, prints no checksum
and exits with 1, and nothing after the failure matters; and the ENGINE, which has no part in the error (R97), still
holds the checksum of the bytes written before it, and has returned no value. -/
def Obligations.ReadFailureLeavesTheChecksumSoFar : Prop :=
  ∀ (flags : List Flag) (chunks : List (List Byte)) (rest : List ReadEvent), Flag.help ∉ flags →
    runTool flags (chunks.map ReadEvent.chunk ++ .failure :: rest) = some .readFailed ∧
    ToolResult.readFailed.exitCode = 1 ∧
    ∃ s, toolEngine (chunks.map ReadEvent.chunk ++ .failure :: rest) = .next s ∧
      s.crc = writeAll 0x00B704CE#32 chunks.flatten ∧ s.sumPort = some (checksum chunks.flatten) ∧ s.returned = []

/-- R84 on the bytes of "abc", with the alphabet and codes of K3 and K5 (log 12). -/
def Obligations.EndToEndAbc : Prop :=
  runTool [] [.chunk [0x61#8, 0x62#8, 0x63#8]] = some (.printed ['B', 'A', '1', 'C', '7', 'B', '\n']) ∧
  runTool [.base64] [.chunk [0x61#8, 0x62#8, 0x63#8]] = some (.printed ['=', 'u', 'h', 'x', '7', '\n'])
end

