-- ==== Sys2Proof/Laws/State.lean ====
section
/-! SUPPORT. One lemma per field per update of State. -/

namespace Sys2Proof.Machine

/-! ### initialise -/

@[simp] theorem State.initialise_crc (s : State) : s.initialise.crc = Config.initial := rfl
@[simp] theorem State.initialise_phase (s : State) : s.initialise.phase = .afterReset := rfl
@[simp] theorem State.initialise_program (s : State) : s.initialise.program = s.program := rfl
@[simp] theorem State.initialise_index (s : State) : s.initialise.index = s.index := rfl
@[simp] theorem State.initialise_returned (s : State) : s.initialise.returned = s.returned := rfl

/-! ### setCrc -/

@[simp] theorem State.setCrc_crc (s : State) (v : Word) : (s.setCrc v).crc = v := rfl
@[simp] theorem State.setCrc_phase (s : State) (v : Word) : (s.setCrc v).phase = s.phase := rfl
@[simp] theorem State.setCrc_program (s : State) (v : Word) : (s.setCrc v).program = s.program := rfl
@[simp] theorem State.setCrc_index (s : State) (v : Word) : (s.setCrc v).index = s.index := rfl
@[simp] theorem State.setCrc_returned (s : State) (v : Word) : (s.setCrc v).returned = s.returned := rfl

/-! ### deliver -/

@[simp] theorem State.deliver_crc (s : State) (v : Sum24) : (s.deliver v).crc = s.crc := rfl
@[simp] theorem State.deliver_phase (s : State) (v : Sum24) : (s.deliver v).phase = s.phase := rfl
@[simp] theorem State.deliver_program (s : State) (v : Sum24) : (s.deliver v).program = s.program := rfl
@[simp] theorem State.deliver_index (s : State) (v : Sum24) : (s.deliver v).index = s.index := rfl
@[simp] theorem State.deliver_returned (s : State) (v : Sum24) : (s.deliver v).returned = s.returned ++ [v] := rfl

/-! ### advance -/

@[simp] theorem State.advance_crc (s : State) : s.advance.crc = s.crc := rfl
@[simp] theorem State.advance_phase (s : State) : s.advance.phase = s.phase := rfl
@[simp] theorem State.advance_program (s : State) : s.advance.program = s.program := rfl
@[simp] theorem State.advance_index (s : State) : s.advance.index = s.index + 1 := rfl
@[simp] theorem State.advance_returned (s : State) : s.advance.returned = s.returned := rfl

/-! ### load -/

@[simp] theorem State.load_crc (s : State) (edges : List Edge) : (s.load edges).crc = s.crc := rfl
@[simp] theorem State.load_phase (s : State) (edges : List Edge) : (s.load edges).phase = s.phase := rfl
@[simp] theorem State.load_program (s : State) (edges : List Edge) : (s.load edges).program = edges := rfl
@[simp] theorem State.load_index (s : State) (edges : List Edge) : (s.load edges).index = 0 := rfl
@[simp] theorem State.load_returned (s : State) (edges : List Edge) : (s.load edges).returned = s.returned := rfl

/-! ### withCommand -/

@[simp] theorem State.withCommand_crc (s : State) (w : CommandWord) : (s.withCommand w).crc = s.crc := rfl
@[simp] theorem State.withCommand_phase (s : State) (w : CommandWord) : (s.withCommand w).phase = s.phase := rfl
@[simp] theorem State.withCommand_program (s : State) (w : CommandWord) : (s.withCommand w).program = placeEdge s.program s.index { rst := false, cmd := w } := rfl
@[simp] theorem State.withCommand_index (s : State) (w : CommandWord) : (s.withCommand w).index = s.index := rfl
@[simp] theorem State.withCommand_returned (s : State) (w : CommandWord) : (s.withCommand w).returned = s.returned := rfl

/-! ### Events -/

@[simp] theorem hardwareReset_eq (s : State) : hardwareReset s = s.initialise := rfl
@[simp] theorem powerOn_crc (content : Word) (s : State) : (powerOn content s).crc = content := rfl
@[simp] theorem powerOn_phase (content : Word) (s : State) : (powerOn content s).phase = .beforeReset := rfl
@[simp] theorem powerOn_program (content : Word) (s : State) : (powerOn content s).program = s.program := rfl
@[simp] theorem powerOn_index (content : Word) (s : State) : (powerOn content s).index = s.index := rfl
@[simp] theorem powerOn_returned (content : Word) (s : State) : (powerOn content s).returned = s.returned := rfl

/-! ### The state after reset (`10_state.md` R22) -/

@[simp] theorem State.reset_crc : State.reset.crc = Config.initial := rfl
@[simp] theorem State.reset_phase : State.reset.phase = .afterReset := rfl
@[simp] theorem State.reset_program : State.reset.program = [] := rfl
@[simp] theorem State.reset_index : State.reset.index = 0 := rfl
@[simp] theorem State.reset_returned : State.reset.returned = [] := rfl

/-! ### The views of the state -/

@[simp] theorem State.upcoming_load (s : State) (edges : List Edge) : (s.load edges).upcoming = edges := rfl

@[simp] theorem State.ready_iff (s : State) : s.ready = true ↔ s.phase = .afterReset := by
  simp [State.ready]

theorem State.sumPort_of_ready (s : State) (h : s.phase = .afterReset) : s.sumPort = some (maskedSum s.crc) := by
  simp [State.sumPort, h]

theorem State.sumPort_of_unready (s : State) (h : s.phase = .beforeReset) : s.sumPort = none := by
  simp [State.sumPort, h]

end Sys2Proof.Machine
end

