-- ==== Sys2Proof/Laws/Ops.lean ====
section
/-! SUPPORT. One lemma per shared operation of `Machine/Ops.lean`: what it does, said once. -/

namespace Sys2Proof.Machine

/-! ### The pure functions -/

/-- The stored-nowhere condition is bit 24 of the shifted value (R56). -/
theorem feedback_eq_getLsbD (t : Word) : feedback t = t.getLsbD 24 := by
  have hmask : Config.feedbackMask = BitVec.twoPow 32 24 := by decide
  have hne : BitVec.twoPow 32 24 ≠ 0#32 := by decide
  unfold feedback
  rw [hmask, BitVec.and_twoPow]
  cases t.getLsbD 24 <;> simp [hne]

/-- The condition, seen from before the shift: old bit 23 (R57). -/
theorem feedback_shift (c : Word) : feedback (c <<< 1) = c.getLsbD 23 := by
  simp [feedback_eq_getLsbD]

/-- A shift-and-reduce step as a shift and an XOR (R56). -/
theorem shift1_eq_xor (c : Word) :
    shift1 c = (c <<< 1) ^^^ (if c.getLsbD 23 then Config.polynomial else 0#32) := by
  simp only [shift1, feedback_shift]
  cases c.getLsbD 23 <;> simp

/-- Each bit of a shift-and-reduce step, by the bits before it. -/
theorem getLsbD_shift1 (c : Word) (k : Nat) :
    (shift1 c).getLsbD k =
      ((decide (k < 32) && !decide (k < 1) && c.getLsbD (k - 1)) ^^
        (c.getLsbD 23 && Config.polynomial.getLsbD k)) := by
  rw [shift1_eq_xor, BitVec.getLsbD_xor, BitVec.getLsbD_shiftLeft]
  cases c.getLsbD 23 <;> simp

/-- Where an input byte's bits land (R45, `20_memory.md` R30). -/
theorem getLsbD_operandWord (v : Byte) (k : Nat) :
    (operandWord v).getLsbD k = (decide (k < 32) && !decide (k < 16) && v.getLsbD (k - 16)) := by
  unfold operandWord Config.byteShift
  by_cases h : k < 16 <;> by_cases h' : k < 32 <;> simp [h, h']

/-- A byte's transition is eight steps after one XOR (R58). -/
theorem byteStep_eq_iterate (c : Word) (v : Byte) : byteStep c v = shift1^[8] (xorIn c v) := rfl

/-- Masking and taking 24 bits is taking 24 bits (R61). -/
theorem maskedSum_eq_setWidth (c : Word) : maskedSum c = c.setWidth 24 := by
  have hmask : ∀ k : Fin 24, Config.sumMask.getLsbD k = true := by decide
  apply BitVec.eq_of_getLsbD_eq
  intro k hk
  simpa [maskedSum, hk] using fun _ => hmask ⟨k, hk⟩

@[simp] theorem writeAll_nil (c : Word) : writeAll c [] = c := rfl

@[simp] theorem writeAll_cons (c : Word) (v : Byte) (rest : List Byte) :
    writeAll c (v :: rest) = writeAll (byteStep c v) rest := rfl

/-- `G(c, B ++ <v>) = BYTESTEP(G(c, B), v)` (R63). -/
theorem writeAll_snoc (c : Word) (bytes : List Byte) (v : Byte) :
    writeAll c (bytes ++ [v]) = byteStep (writeAll c bytes) v := by
  simp [writeAll]

/-! ### Refusing before the first reset -/

/-- All that `onceReset` can answer (R101). -/
theorem onceReset_cases (s t : State) :
    (s.phase = .beforeReset ∧ onceReset s t = .refused .beforeFirstReset) ∨
      (s.phase = .afterReset ∧ onceReset s t = .next t) := by
  unfold onceReset
  cases s.phase <;> simp

theorem onceReset_of_ready {s t : State} (h : s.phase = .afterReset) : onceReset s t = .next t := by
  simp [onceReset, h]

theorem onceReset_of_unready {s t : State} (h : s.phase = .beforeReset) :
    onceReset s t = .refused .beforeFirstReset := by
  simp [onceReset, h]

/-! ### The host's side -/

/-- Moving on consumes the head of what is to come. -/
@[simp] theorem State.upcoming_advance (s : State) : s.advance.upcoming = s.upcoming.tail := by
  simp [State.upcoming, State.advance]

theorem State.presented_of_cons {s : State} {e : Edge} {rest : List Edge} (h : s.upcoming = e :: rest) :
    s.presented = e := by
  simp [State.presented, h]

theorem State.presented_of_nil {s : State} (h : s.upcoming = []) : s.presented = Edge.idle := by
  simp [State.presented, h]

/-- The placed edge stands first in what is left of the list from its place on. -/
theorem drop_placeEdge (l : List Edge) (n : Nat) (e : Edge) :
    (placeEdge l n e).drop n = e :: l.drop (n + 1) := by
  induction n generalizing l with
  | zero => cases l <;> rfl
  | succ n ih =>
    cases l with
    | nil => simpa [placeEdge] using ih []
    | cons d rest => simpa [placeEdge] using ih rest

/-- A word placed on the port is the one presented next. -/
theorem State.presented_withCommand (s : State) (w : CommandWord) :
    (s.withCommand w).presented = { rst := false, cmd := w } := by
  simp [State.presented, State.upcoming, drop_placeEdge]

end Sys2Proof.Machine
end

