-- ==== Sys2Proof/Laws/Step.lean ====
section
/-! SUPPORT. What `exec` and `step` can do, said once. -/

namespace Sys2Proof.Machine

@[simp] theorem exec_nop (s : State) : exec .nop s = .next s := rfl

@[simp] theorem exec_reset (s : State) : exec .reset s = .next s.initialise := rfl

theorem exec_write (v : Byte) (s : State) : exec (.write v) s = onceReset s (s.setCrc (byteStep s.crc v)) := rfl

theorem exec_sum (s : State) : exec .sum s = onceReset s (s.deliver (maskedSum s.crc)) := rfl

/-- Everything a command can do when it is not refused. -/
theorem exec_next_cases {i : Instr} {s t : State} (h : exec i s = .next t) :
    (i = .nop ∧ t = s) ∨ (i = .reset ∧ t = s.initialise) ∨
      (∃ v, i = .write v ∧ s.phase = .afterReset ∧ t = s.setCrc (byteStep s.crc v)) ∨
      (i = .sum ∧ s.phase = .afterReset ∧ t = s.deliver (maskedSum s.crc)) := by
  cases i with
  | nop => exact .inl ⟨rfl, (Host.Outcome.next.inj h).symm⟩
  | reset => exact .inr (.inl ⟨rfl, (Host.Outcome.next.inj h).symm⟩)
  | write v =>
    rw [exec_write] at h
    obtain ⟨-, he⟩ | ⟨hs, he⟩ := onceReset_cases s (s.setCrc (byteStep s.crc v)) <;> rw [he] at h
    · cases h
    · exact .inr (.inr (.inl ⟨v, rfl, hs, (Host.Outcome.next.inj h).symm⟩))
  | sum =>
    rw [exec_sum] at h
    obtain ⟨-, he⟩ | ⟨hs, he⟩ := onceReset_cases s (s.deliver (maskedSum s.crc)) <;> rw [he] at h
    · cases h
    · exact .inr (.inr (.inr ⟨rfl, hs, (Host.Outcome.next.inj h).symm⟩))

/-- An edge with `rst` = 1. -/
theorem executeEdge_of_rst {e : Edge} (h : e.rst = true) (s : State) : executeEdge e s = .next s.initialise := by
  simp [executeEdge, h]

/-- An edge with `rst` = 0. -/
theorem executeEdge_of_command {e : Edge} (h : e.rst = false) (s : State) :
    executeEdge e s = exec (decode e.cmd) s := by
  simp [executeEdge, h]

theorem step_eq_executeEdge (s : State) : step s = executeEdge s.presented s.advance := rfl

/-- Everything one rising edge can do when it is not refused. -/
theorem step_next_cases {s t : State} (h : step s = .next t) :
    (s.presented.rst = true ∧ t = s.advance.initialise) ∨
      (s.presented.rst = false ∧ exec (decode s.presented.cmd) s.advance = .next t) := by
  rw [step_eq_executeEdge] at h
  cases hr : s.presented.rst with
  | true =>
    rw [executeEdge_of_rst hr] at h
    exact .inl ⟨rfl, (Host.Outcome.next.inj h).symm⟩
  | false => exact .inr ⟨rfl, by rwa [executeEdge_of_command hr] at h⟩

/-- A run of no edge. -/
@[simp] theorem runFor_zero (s : State) : runFor 0 s = .next s := rfl

/-- A run begins with a step. -/
theorem runFor_succ_of_next {s t : State} (h : step s = .next t) (k : Nat) : runFor (k + 1) s = runFor k t := by
  have hs : Sys2Proof.core.step s = .next t := h
  simp only [runFor, Host.Core.run, hs]
  rfl

/-- A run ends where a step is refused. -/
theorem runFor_succ_of_refused {s : State} {r : Refusal} (h : step s = .refused r) (k : Nat) :
    runFor (k + 1) s = .refused r := by
  have hs : Sys2Proof.core.step s = .refused r := h
  simp only [runFor, Host.Core.run, hs]
  rfl

/-- No step ends in a fault: there is none (`60_exceptions.md` R85). -/
theorem step_ne_fault (s : State) (r : Fault) : step s ≠ .fault r := nomatch r

/-- A step consumes the presented edge and leaves the host's list as it is. -/
theorem step_host_side {s t : State} (h : step s = .next t) :
    t.upcoming = s.upcoming.tail ∧ t.program = s.program ∧ t.index = s.index + 1 := by
  obtain ⟨-, rfl⟩ | ⟨-, he⟩ := step_next_cases h
  · exact ⟨State.upcoming_advance s, rfl, rfl⟩
  · obtain ⟨-, rfl⟩ | ⟨-, rfl⟩ | ⟨v, -, -, rfl⟩ | ⟨-, -, rfl⟩ := exec_next_cases he <;>
      exact ⟨State.upcoming_advance s, rfl, rfl⟩

end Sys2Proof.Machine
end

