-- ==== Sys2Proof/Laws/Layers.lean ====
section
/-! SUPPORT. What the operations of the layers above the engine do: reading an input, and one step of a platform. -/

namespace Sys2Proof.Machine

/-- An input with no failure is read to its end. -/
theorem readInput_chunks (chunks : List (List Byte)) :
    readInput (chunks.map ReadEvent.chunk) = { chunks := chunks, failed := false } := by
  induction chunks with
  | nil => rfl
  | cons b rest ih => simp [readInput, ih]

/-- Reading stops at the first failure, and nothing after it matters (`41_host_boundary.md` R83). -/
theorem readInput_failure (chunks : List (List Byte)) (rest : List ReadEvent) :
    readInput (chunks.map ReadEvent.chunk ++ .failure :: rest) = { chunks := chunks, failed := true } := by
  induction chunks with
  | nil => rfl
  | cons b more ih => simp [readInput, ih]

/-- Everything a platform's step can do when it is not refused: nothing, for a number no engine has, or one engine's
own step. -/
theorem Platform.stepEngine_next_cases {p q : Platform} {j : Nat} (h : p.stepEngine j = .next q) :
    (p.engines[j]? = none ∧ q = p) ∨
      ∃ s t, p.engines[j]? = some s ∧ step s = .next t ∧ q = { engines := p.engines.set j t } := by
  unfold Platform.stepEngine at h
  cases hj : p.engines[j]? with
  | none =>
    rw [hj] at h
    exact .inl ⟨rfl, (Host.Outcome.next.inj h).symm⟩
  | some s =>
    simp only [hj] at h
    cases hs : step s with
    | next t =>
      simp only [hs] at h
      exact .inr ⟨s, t, rfl, hs, (Host.Outcome.next.inj h).symm⟩
    | fault r => exact absurd hs (step_ne_fault s r)
    | refused r => simp [hs] at h

end Sys2Proof.Machine
end

