-- ==== Sys2Proof/Laws/PerInstr.lean ====
section
/-! SUPPORT. Facts proved for each constructor of Instr. -/

namespace Sys2Proof.Laws

/-- The bits of a word put together from fields (`30_encoding.md` R43). -/
theorem getLsbD_wordOf (op : BitVec 2) (data : Byte) (k : Nat) :
    (wordOf op data).getLsbD k = if k < 8 then data.getLsbD k else op.getLsbD (k - 8) := by
  exact BitVec.getLsbD_append (x := op) (y := data) (i := k)

/-- The `op` field of a word put together from fields. -/
theorem opField_wordOf (op : BitVec 2) (data : Byte) : opField (wordOf op data) = op := by
  apply BitVec.eq_of_getLsbD_eq
  intro k hk
  simp [opField, getLsbD_wordOf, hk]

/-- The `data` field of a word put together from fields. -/
theorem dataField_wordOf (op : BitVec 2) (data : Byte) : dataField (wordOf op data) = data := by
  apply BitVec.eq_of_getLsbD_eq
  intro k hk
  simp [dataField, getLsbD_wordOf, hk]

/-- The decoder on a word put together from fields (R46). -/
theorem decode_wordOf (op : BitVec 2) (data : Byte) :
    decode (wordOf op data) =
      if op = 0b00#2 then .nop else if op = 0b01#2 then .reset else if op = 0b10#2 then .write data else .sum := by
  simp [decode, opField_wordOf, dataField_wordOf]

/-- A word is put together from its own fields (R43). -/
theorem wordOf_fields (w : CommandWord) : wordOf (opField w) (dataField w) = w := by
  apply BitVec.eq_of_getLsbD_eq
  intro k hk
  rw [getLsbD_wordOf]
  by_cases h : k < 8
  · simp [dataField, h]
  · simp [h, opField, show k - 8 < 2 by omega, show 8 + (k - 8) = k by omega]

/-- The word of a command carries its own selector and its own data, and is canonical (`30_encoding.md` R48). -/
def CanonicalWord.Statement (i : Instr) : Prop :=
  opField (encode i) = opcode i ∧ dataField (encode i) = canonicalData i ∧ isCanonicalWord (encode i) = true

theorem CanonicalWord.nop : CanonicalWord.Statement .nop := by
  refine ⟨opField_wordOf _ _, dataField_wordOf _ _, ?_⟩
  decide

theorem CanonicalWord.reset : CanonicalWord.Statement .reset := by
  refine ⟨opField_wordOf _ _, dataField_wordOf _ _, ?_⟩
  decide

theorem CanonicalWord.write (v : Byte) : CanonicalWord.Statement (.write v) := by
  have hop : opField (encode (.write v)) = 0b10#2 := opField_wordOf _ _
  exact ⟨hop, dataField_wordOf _ _, by simp [isCanonicalWord, hop]⟩

theorem CanonicalWord.sum : CanonicalWord.Statement .sum := by
  refine ⟨opField_wordOf _ _, dataField_wordOf _ _, ?_⟩
  decide

end Sys2Proof.Laws
end

