-- ==== Sys2Proof/Tests/Slice0.lean ====
section
/-! SUPPORT. The model's own small tests. Expected values are from `95_test_vectors.md` (its section stands with
each) or written out by hand from the encoding of `30_encoding.md` R43, R44; and one witness per statement that has
hypotheses, showing values that meet them. -/

namespace Sys2Proof.Tests

open Sys2Proof.Machine

/-! ### Well-formedness: an ill-formed term for each check -/

theorem test_word_1023_is_a_command_word : isCommandWord 1023 = true := by decide
theorem test_word_1024_is_refused : isCommandWord 1024 = false := by decide
theorem test_operand_255_is_a_byte : isByteOperand 255 = true := by decide
theorem test_operand_256_is_refused : isByteOperand 256 = false := by decide
theorem test_decoder_rejects_1024_by_name : decodeNumber 1024 = .error .notACommandWord := by rfl
theorem test_assembler_refuses_operand_256 : parseStatement ['W', 'R', 'I', 'T', 'E', ' ', '2', '5', '6'] = none := by
  decide

/-! ### Decoding, from words written out by hand (section 2.6) -/

theorem test_decode_nop : decodeTableWord 16 0b0000000000 = some .nop := by rfl
theorem test_decode_reset : decodeTableWord 16 0b0100000000 = some .reset := by rfl
theorem test_decode_write_61 : decodeTableWord 16 0b1001100001 = some (.write 0x61#8) := by rfl
theorem test_decode_sum : decodeTableWord 16 0b1100000000 = some .sum := by rfl
theorem test_decode_reset_ignores_data : decode 0b0101011010#10 = .reset := by decide

/-! ### The primitives (sections 2.1 and 2.2) -/

theorem test_xorIn_keeps_bits_31_to_24 : xorIn 0xFF123456#32 0x5A#8 = 0xFF483456#32 := by decide
theorem test_shift1_smallest_feedback : shift1 0x00800000#32 = 0x00864CFB#32 := by decide
theorem test_shift1_never_tests_old_bit_24 : shift1 0x01000000#32 = 0x02000000#32 := by decide
theorem test_shift1_all_ones : shift1 0xFFFFFFFF#32 = 0xFE79B305#32 := by decide
theorem test_byteStep_80 : byteStep 0#32 0x80#8 = 0x003347A4#32 := by decide
theorem test_byteStep_unreachable : byteStep 0xFF123456#32 0x5A#8 = 0x008C74EB#32 := by decide
theorem test_table_example : byteStepByTable 0x00B704CE#32 0x61#8 = 0x00F25713#32 := by decide +kernel
theorem test_narrow_byteStep : byteStep24 0xB704CE#24 0x00#8 = 0x6169D3#24 := by decide

/-! ### One step on a small state -/

/-- A ready engine with the given register, about to sample the given edges. -/
def readyWith (crc : Word) (edges : List Edge) : State :=
  { crc := crc, phase := .afterReset, program := edges, index := 0, returned := [] }

/-- The edge that presents a word with `rst` = 0. -/
def word (w : CommandWord) : Edge := { rst := false, cmd := w }

/-- Program P3b, rows 3 and 4: NOP. -/
theorem test_nop : step (readyWith 0x00F25713#32 [word 0x000#10]) =
    .next { readyWith 0x00F25713#32 [word 0x000#10] with index := 1 } := by rfl

/-- Program P1, row 1: RESET from a dirty state. -/
theorem test_reset : step (readyWith 0x00F25713#32 [word 0x100#10]) =
    .next { readyWith 0x00B704CE#32 [word 0x100#10] with index := 1 } := by rfl

/-- Program P3a, row 1: WRITE 'a'. -/
theorem test_write : step (readyWith 0x00B704CE#32 [word 0x261#10]) =
    .next { readyWith 0x00F25713#32 [word 0x261#10] with index := 1 } := by rfl

/-- Program P5, row 6: WRITE 0x00 in the all-zero state. -/
theorem test_write_zero_state : step (readyWith 0#32 [word 0x200#10]) =
    .next { readyWith 0#32 [word 0x200#10] with index := 1 } := by rfl

/-- Program P1, row 0: SUM. -/
theorem test_sum : step (readyWith 0x00F25713#32 [word 0x300#10]) =
    .next { readyWith 0x00F25713#32 [word 0x300#10] with index := 1, returned := [0xF25713#24] } := by rfl

/-- Section 2.9, cycle 2: the hardware reset wins over WRITE 0x62. -/
theorem test_hardware_reset_wins : step (readyWith 0x00F25713#32 [Edge.withReset 0x262#10]) =
    .next { readyWith 0x00B704CE#32 [Edge.withReset 0x262#10] with index := 1 } := by rfl

/-- R101: SUM before the first reset. -/
theorem test_sum_before_reset : step (powerOn 0#32 (readyWith 0#32 [word 0x300#10])) = .refused .beforeFirstReset := by
  rfl

/-- A word placed by the host's question is the next one sampled, also where the list had ended earlier. -/
theorem test_withFetchWord : step ({ State.reset with index := 2 }.withFetchWord 16 0x261) =
    .next { State.reset with
      crc := 0x00F25713#32, program := [Edge.idle, Edge.idle, word 0x261#10], index := 3 } := by rfl

/-! ### Text (section 2.7; R48, R52, R53) -/

theorem test_hex_leading_zero : hexLine 0x04CE00#24 = ['0', '4', 'C', 'E', '0', '0', '\n'] := by decide
theorem test_base64_plus : base64Line 0xFAEDC0#24 = ['=', '+', 'u', '3', 'A', '\n'] := by decide
theorem test_assemble_crc24_text :
    assemble [['C', 'R', 'C', '2', '4', ' ', '"', 'a', 'b', 'c', '"']] =
      some [0x100#10, 0x261#10, 0x262#10, 0x263#10, 0x300#10] := by decide +kernel
theorem test_assemble_quoted_byte :
    assemble [['W', 'R', 'I', 'T', 'E', ' ', '\'', 'a', '\'', ' ', ';', ' ', 'x']] = some [0x261#10] := by
  decide +kernel

/-- R83: a failure after "a" leaves the engine with the register of "a" (section 2.3). -/
theorem test_read_failure_engine :
    ∃ s, toolEngine [.chunk [0x61#8], .failure, .chunk [0x62#8]] = .next s ∧ s.crc = 0x00F25713#32 :=
  ⟨_, rfl, by decide⟩

/-- The number of IDLE is read in decimal only (log 11). -/
theorem test_idle_decimal : parseStatement ['I', 'D', 'L', 'E', ' ', '3'] = some (.pseudo (.idle 3)) ∧
    parseStatement ['I', 'D', 'L', 'E', ' ', '0', 'x', '3'] = none := by decide +kernel

/-! ### Witnesses: values that meet the hypotheses of each statement -/

theorem witness_DecodeInvertsEncode : (Instr.write 0xFF#8).wellFormed = true := by decide

theorem witness_OpFieldSelectsTheOperation :
    (0x0FF#10 : CommandWord).extractLsb' 8 2 = 0b00#2 ∧ (0x1FF#10 : CommandWord).extractLsb' 8 2 = 0b01#2 ∧
    (0x2FF#10 : CommandWord).extractLsb' 8 2 = 0b10#2 ∧ (0x3FF#10 : CommandWord).extractLsb' 8 2 = 0b11#2 := by decide

theorem witness_EveryWordIsACommand : 1023 < 1024 ∧ (0b11#2 ≠ 0b10#2) := by decide

theorem witness_CanonicalWords : isCanonicalWord 0x3FF#10 = false := by decide

theorem witness_XorInChangesOnlyBits23To16 : 7 < 8 ∧ (15 < 16 ∨ 24 ≤ 15) ∧ (24 < 16 ∨ 24 ≤ 24) := by decide

theorem witness_ShiftStepTestsTheShiftedValue :
    ((0x007FFFFF#32 : Word) <<< 1) &&& 0x01000000#32 = 0#32 ∧
    ((0x00800000#32 : Word) <<< 1) &&& 0x01000000#32 ≠ 0#32 := by decide

theorem witness_ShiftStepFollowsTheTaps :
    23 ∈ [1, 3, 4, 5, 6, 7, 10, 11, 14, 17, 18, 23] ∧ 22 ∈ [2, 8, 9, 12, 13, 15, 16, 19, 20, 21, 22] ∧
    25 ≤ 25 ∧ 31 ≤ 31 := by decide

theorem witness_TableLookupEqualsBitLoop : (0x00FFFFFF#32 : Word).toNat < 2 ^ 24 := by decide

theorem witness_WriteAppliesTheTransition :
    State.reset.phase = .afterReset ∧ (0xFF000000#32 : Word).setWidth 24 = 0#24 ∧
    (0xFF123456#32 : Word).setWidth 24 = (0x00123456#32 : Word).setWidth 24 := by decide

theorem witness_SumReturnsTheLowBits : State.reset.phase = .afterReset := by decide

theorem witness_BeforeTheFirstReset : (powerOn 0xDEADBEEF#32 State.reset).phase = .beforeReset := by decide

theorem witness_StepRunsThePresentedCommand :
    (readyWith 0#32 [word 0x300#10]).presented.rst = false ∧
    (readyWith 0#32 [Edge.withReset 0x300#10]).presented.rst = true := by decide

theorem witness_ExhaustedProgramIdles :
    State.reset.program.length ≤ State.reset.index ∧
    (powerOn 0#32 State.reset).program.length ≤ (powerOn 0#32 State.reset).index := by decide

theorem witness_HardwareResetWins :
    (powerOn 0#32 (readyWith 0#32 (List.replicate 2 (Edge.withReset 0x3FF#10) ++ [word 0x300#10]))).upcoming =
      List.replicate (1 + 1) (Edge.withReset 0x3FF#10) ++ [word 0x300#10] := by decide

theorem witness_OnlyWriteResetAndRstWriteTheRegister :
    (∃ t, step (readyWith 1#32 [Edge.withReset 0x2FF#10]) = .next t ∧
      (readyWith 1#32 [Edge.withReset 0x2FF#10]).presented.rst = true) ∧
    (∃ t, step (readyWith 1#32 [word 0x1FF#10]) = .next t ∧
      decode (readyWith 1#32 [word 0x1FF#10]).presented.cmd = .reset) ∧
    (∃ t, step (readyWith 1#32 [word 0x2FF#10]) = .next t ∧
      decode (readyWith 1#32 [word 0x2FF#10]).presented.cmd = .write 0xFF#8) ∧
    (∃ t, step (readyWith 1#32 [word 0x3FF#10]) = .next t ∧
      decode (readyWith 1#32 [word 0x3FF#10]).presented.cmd = .sum) ∧
    ∃ t, step (readyWith 1#32 [word 0x0FF#10]) = .next t ∧
      decode (readyWith 1#32 [word 0x0FF#10]).presented.cmd = .nop :=
  ⟨⟨_, rfl, by decide⟩, ⟨_, rfl, by decide⟩, ⟨_, rfl, by decide⟩, ⟨_, rfl, by decide⟩, ⟨_, rfl, by decide⟩⟩

theorem witness_SumPortShowsTheRegister :
    (∃ t, step (readyWith 1#32 [word 0x300#10]) = .next t ∧
      (readyWith 1#32 [word 0x300#10]).presented.rst = false ∧
      decode (readyWith 1#32 [word 0x300#10]).presented.cmd = .sum) ∧
    (∃ t, step (readyWith 1#32 [Edge.withReset 0x300#10]) = .next t ∧
      (readyWith 1#32 [Edge.withReset 0x300#10]).presented.rst = true) ∧
    State.reset.phase = .afterReset ∧ (powerOn 1#32 State.reset).phase = .beforeReset :=
  ⟨⟨_, rfl, by decide, by decide⟩, ⟨_, rfl, by decide⟩, by decide, by decide⟩

theorem witness_ReadingHasNoSideEffect :
    (readyWith 1#32 [word 0x300#10, word 0x0FF#10, word 0x3FF#10, word 0x100#10]).upcoming =
      [word 0x300#10, word 0x0FF#10, word 0x3FF#10] ++ [word 0x100#10] ∧
    (∀ e ∈ [word 0x300#10, word 0x0FF#10, word 0x3FF#10],
      e.rst = false ∧ (decode e.cmd = .nop ∨ decode e.cmd = .sum)) ∧
    ∃ t, exec .reset (readyWith 1#32 []) = .next t := ⟨by decide, by decide, _, rfl⟩

theorem witness_ReadyMachineNeverStops :
    State.reset.phase = .afterReset ∧
    ∃ r, step (powerOn 1#32 (readyWith 1#32 [word 0x200#10])) = .refused r := ⟨by decide, _, rfl⟩

theorem witness_StepKeepsUpperBitsZero :
    (readyWith 0x00FFFFFF#32 [word 0x2FF#10]).registerInvariant = true ∧
    ∃ t, step (readyWith 0x00FFFFFF#32 [word 0x2FF#10]) = .next t := ⟨by decide, _, rfl⟩

theorem witness_ReachableUpperBitsAreZero : ∃ t, runFor 2 (State.reset.load [word 0x2FF#10]) = .next t := ⟨_, rfl⟩

theorem witness_ResetValues : ∃ t, exec .reset (powerOn 1#32 State.reset) = .next t := ⟨_, rfl⟩

theorem witness_ResetThenSumReturnsInitial :
    (powerOn 1#32 (readyWith 1#32 [word 0x1FF#10, word 0x3FF#10])).upcoming = word 0x1FF#10 :: word 0x3FF#10 :: [] ∧
    (word 0x1FF#10).rst = false ∧ decode (word 0x1FF#10).cmd = .reset ∧
    (word 0x3FF#10).rst = false ∧ decode (word 0x3FF#10).cmd = .sum := by decide

theorem witness_EverySumIsTheChecksumSinceReset :
    (readyWith 0x00F25713#32 [word 0x300#10, word 0x262#10]).phase = .afterReset ∧
    (readyWith 0x00F25713#32 [word 0x300#10, word 0x262#10]).crc = writeAll 0x00B704CE#32 [0x61#8] ∧
    (readyWith 0x00F25713#32 [word 0x300#10, word 0x262#10]).upcoming = [word 0x300#10, word 0x262#10] ++ [] := by decide

theorem witness_WholeMessageChecksum :
    (powerOn 1#32 (readyWith 1#32 [word 0x100#10, word 0x261#10, word 0x300#10])).upcoming =
      (Pseudo.crc24 [0x61#8]).expand.map Edge.ofInstr ++ [] := by decide

theorem witness_ChunkingDoesNotMatter :
    State.reset.phase = .afterReset ∧
    (∀ e ∈ [word 0x261#10, word 0x300#10, word 0x000#10] ++ [word 0x261#10],
      e.rst = false ∧ decode e.cmd ≠ .reset) ∧
    bytesSinceReset [] [word 0x261#10, word 0x300#10, word 0x000#10] = bytesSinceReset [] [word 0x261#10] := by decide

theorem witness_SameInputSameResults :
    (readyWith 0xFF000001#32 [word 0x300#10]).phase = .afterReset ∧
    maskedSum (readyWith 0xFF000001#32 [word 0x300#10]).crc = maskedSum (readyWith 1#32 [word 0x300#10]).crc ∧
    (readyWith 0xFF000001#32 [word 0x300#10]).upcoming =
      { readyWith 1#32 [Edge.idle, word 0x300#10] with index := 1 }.upcoming := by decide

theorem witness_AppendingTheSumGivesZero :
    (readyWith 0x00B704CE#32 [word 0x2B7#10, word 0x204#10, word 0x2CE#10]).phase = .afterReset ∧
    upperBitsZero (readyWith 0x00B704CE#32 [word 0x2B7#10, word 0x204#10, word 0x2CE#10]).crc = true ∧
    (readyWith 0x00B704CE#32 [word 0x2B7#10, word 0x204#10, word 0x2CE#10]).upcoming =
      (Call.write [(0x00B704CE#32 : Word).extractLsb' 16 8, (0x00B704CE#32 : Word).extractLsb' 8 8,
        (0x00B704CE#32 : Word).extractLsb' 0 8]).edges ++ [] := by decide

theorem witness_EnginesShareNothing :
    (∀ s ∈ ({ engines := [State.reset, readyWith 1#32 [word 0x300#10]] } : Platform).engines,
      s.phase = .afterReset) ∧
    ({ engines := [State.reset, readyWith 1#32 [word 0x300#10]] } : Platform).engines[1]? =
      some (readyWith 1#32 [word 0x300#10]) := by decide

theorem witness_RenderingsReadBack : hexLine 0xFFFFFF#24 = hexLine 0xFFFFFF#24 ∧
    base64Line 0#24 = base64Line 0#24 := ⟨rfl, rfl⟩

theorem witness_ToolPrintsTheChecksum :
    Flag.help ∉ [Flag.base64] ∧ ReadEvent.failure ∈ [ReadEvent.chunk [0x61#8], ReadEvent.failure] ∧
    Flag.help ∈ [Flag.base64, Flag.help] := by decide

theorem witness_ReadFailureLeavesTheChecksumSoFar : Flag.help ∉ [Flag.base64] := by decide

end Sys2Proof.Tests
end

/-! ## The state family (`10_state.md`): what every step keeps, and what runs add up to -/

namespace Sys2Proof.Machine

/-! ### Bits 31 to 24 of the register (R15) -/

/-- The polynomial ends at bit 24, which it clears after a shift that set it (R57). -/
theorem getLsbD_shift1_24 (c : Word) : (shift1 c).getLsbD 24 = false := by
  have hpoly : Config.polynomial.getLsbD 24 = true := by decide
  rw [getLsbD_shift1, hpoly]
  simp

/-- Above bit 24 a shift-and-reduce step only moves bits up (R57). -/
theorem getLsbD_shift1_of_ge_25 (c : Word) (j : Nat) :
    (shift1 c).getLsbD (25 + j) = (decide (25 + j < 32) && c.getLsbD (24 + j)) := by
  have hpoly : Config.polynomial.getLsbD (25 + j) = false :=
    Nat.testBit_lt_two_pow
      (calc Config.polynomial.toNat < 2 ^ 25 := by decide
        _ ≤ 2 ^ (25 + j) := Nat.pow_le_pow_right (by decide) (by omega))
  simp [getLsbD_shift1, hpoly, show 25 + j - 1 = 24 + j by omega]

/-- Each shift-and-reduce step clears one more bit above bit 23: the zero that it puts at bit 24 moves up. -/
theorem getLsbD_shift1_iterate (n : Nat) (c : Word) (j : Nat) (hj : j < n) :
    (shift1^[n] c).getLsbD (24 + j) = false := by
  induction n generalizing j with
  | zero => omega
  | succ n ih =>
    rw [Function.iterate_succ_apply']
    cases j with
    | zero => exact getLsbD_shift1_24 _
    | succ j =>
      rw [show 24 + (j + 1) = 25 + j by omega, getLsbD_shift1_of_ge_25, ih j (by omega), Bool.and_false]

theorem upperBitsZero_iff (c : Word) : upperBitsZero c = true ↔ ∀ j < 8, c.getLsbD (24 + j) = false := by
  rw [upperBitsZero, beq_iff_eq]
  constructor
  · intro h j hj
    have hbit := congrArg (fun b => b.getLsbD j) h
    simpa [hj] using hbit
  · intro h
    apply BitVec.eq_of_getLsbD_eq
    intro j hj
    simp [h j hj]

/-- Eight steps clear the eight bits, whatever the register held (R15). -/
theorem upperBitsZero_byteStep (c : Word) (v : Byte) : upperBitsZero (byteStep c v) = true :=
  (upperBitsZero_iff _).2 fun j hj => getLsbD_shift1_iterate 8 (xorIn c v) j hj

theorem upperBitsZero_initial : upperBitsZero Config.initial = true := by decide

theorem State.registerInvariant_iff (s : State) :
    s.registerInvariant = true ↔ (s.phase = .afterReset → upperBitsZero s.crc = true) := by
  rw [State.registerInvariant, Bool.or_eq_true, ← State.ready_iff]
  cases s.ready <;> simp

/-- R15 is kept by every command: only WRITE and RESET change the register, and both end with the bits zero. -/
theorem exec_keeps_registerInvariant {i : Instr} {s t : State} (hs : s.registerInvariant = true)
    (h : exec i s = .next t) : t.registerInvariant = true := by
  rw [State.registerInvariant_iff] at hs ⊢
  obtain ⟨-, rfl⟩ | ⟨-, rfl⟩ | ⟨v, -, -, rfl⟩ | ⟨-, -, rfl⟩ := exec_next_cases h
  · exact hs
  · exact fun _ => upperBitsZero_initial
  · exact fun _ => upperBitsZero_byteStep s.crc v
  · exact hs

theorem step_keeps_registerInvariant {s t : State} (hs : s.registerInvariant = true) (h : step s = .next t) :
    t.registerInvariant = true := by
  obtain ⟨-, rfl⟩ | ⟨-, he⟩ := step_next_cases h
  · exact (State.registerInvariant_iff _).2 fun _ => upperBitsZero_initial
  · have hadvance : s.advance.registerInvariant = true := hs
    exact exec_keeps_registerInvariant hadvance he

/-- Settles O26, by the cases of a step: a WRITE clears the bits in its eight shifts, a reset writes `INITIAL`. -/
theorem stepKeepsUpperBitsZero : Obligations.StepKeepsUpperBitsZero :=
  fun _ _ hs h => step_keeps_registerInvariant hs h

/-! ### Ready machines and runs (R85, R107) -/

/-- After the first reset every command completes, and the machine stays ready. -/
theorem exec_of_ready (i : Instr) {s : State} (hs : s.phase = .afterReset) :
    ∃ t, exec i s = .next t ∧ t.phase = .afterReset := by
  cases i with
  | nop => exact ⟨s, rfl, hs⟩
  | reset => exact ⟨s.initialise, rfl, rfl⟩
  | write v => exact ⟨_, onceReset_of_ready hs, hs⟩
  | sum => exact ⟨_, onceReset_of_ready hs, hs⟩

/-- After the first reset every step completes, and the machine stays ready. -/
theorem step_of_ready {s : State} (hs : s.phase = .afterReset) :
    ∃ t, step s = .next t ∧ t.phase = .afterReset := by
  rw [step_eq_executeEdge]
  cases hr : s.presented.rst with
  | true => exact ⟨_, executeEdge_of_rst hr _, rfl⟩
  | false =>
    rw [executeEdge_of_command hr]
    exact exec_of_ready _ hs

theorem step_keeps_ready {s t : State} (hs : s.phase = .afterReset) (h : step s = .next t) :
    t.phase = .afterReset := by
  obtain ⟨u, hu, hready⟩ := step_of_ready hs
  rw [h] at hu
  rwa [Host.Outcome.next.inj hu]

/-- A completed run of at least one edge is a completed step and a completed run from there. -/
theorem runFor_succ_next {k : Nat} {s t : State} (h : runFor (k + 1) s = .next t) :
    ∃ u, step s = .next u ∧ runFor k u = .next t := by
  cases hs : step s with
  | next u => exact ⟨u, rfl, (runFor_succ_of_next hs k).symm.trans h⟩
  | fault r => exact absurd hs (step_ne_fault s r)
  | refused r =>
    rw [runFor_succ_of_refused hs] at h
    cases h

/-- What every step keeps, every run keeps. -/
theorem runFor_keeps {P : State → Prop} (hstep : ∀ s t, P s → step s = .next t → P t) {k : Nat} {s t : State}
    (hs : P s) (h : runFor k s = .next t) : P t := by
  induction k generalizing s with
  | zero => rwa [← Host.Outcome.next.inj h]
  | succ k ih =>
    obtain ⟨u, hu, hrun⟩ := runFor_succ_next h
    exact ih (hstep s u hs hu) hrun

/-- A run from a ready state that meets R15's invariant ends with bits 31 to 24 zero. -/
theorem runFor_upperBitsZero {k : Nat} {s t : State} (hready : s.phase = .afterReset)
    (hs : s.registerInvariant = true) (h : runFor k s = .next t) : upperBitsZero t.crc = true := by
  have ht : t.registerInvariant = true := runFor_keeps (fun _ _ => step_keeps_registerInvariant) hs h
  exact (State.registerInvariant_iff t).1 ht (runFor_keeps (fun _ _ => step_keeps_ready) hready h)

theorem registerInvariant_reset : State.reset.registerInvariant = true :=
  (State.registerInvariant_iff _).2 fun _ => upperBitsZero_initial

/-- Settles O27: `INITIAL` has bits 31 to 24 zero. -/
theorem resetMeetsUpperBitsZero : Obligations.ResetMeetsUpperBitsZero := registerInvariant_reset

/-- Settles O28: the invariant holds of the loaded reset state and is kept along the run; any WRITE establishes it. -/
theorem reachableUpperBitsAreZero : Obligations.ReachableUpperBitsAreZero := by
  refine ⟨fun p k t h => ?_, upperBitsZero_byteStep⟩
  have hloaded : (State.reset.load p).registerInvariant = true := registerInvariant_reset
  exact runFor_upperBitsZero rfl hloaded h

/-! ### What each kind of edge writes, and the reset values (R14, R22) -/

/-- A completed step at an edge with `rst` = 0 is its command's effect (R50). -/
theorem exec_of_step {s t : State} {i : Instr} (h : step s = .next t) (hr : s.presented.rst = false)
    (hi : decode s.presented.cmd = i) : exec i s.advance = .next t := by
  rwa [step_eq_executeEdge, executeEdge_of_command hr, hi] at h

/-- A WRITE that completes writes the register and nothing else. -/
theorem eq_of_exec_write {v : Byte} {s t : State} (h : exec (.write v) s = .next t) :
    t = s.setCrc (byteStep s.crc v) := by
  obtain ⟨⟨⟩, -⟩ | ⟨⟨⟩, -⟩ | ⟨_, ⟨⟩, -, ht⟩ | ⟨⟨⟩, -⟩ := exec_next_cases h
  exact ht

/-- A SUM that completes delivers the register's low bits and does nothing else. -/
theorem eq_of_exec_sum {s t : State} (h : exec .sum s = .next t) : t = s.deliver (maskedSum s.crc) := by
  obtain ⟨⟨⟩, -⟩ | ⟨⟨⟩, -⟩ | ⟨_, ⟨⟩, -⟩ | ⟨-, -, ht⟩ := exec_next_cases h
  exact ht

/-- Settles O22, one kind of edge at a time. -/
theorem onlyWriteResetAndRstWriteTheRegister : Obligations.OnlyWriteResetAndRstWriteTheRegister := by
  intro s t h
  obtain ⟨-, hprogram, hindex⟩ := step_host_side h
  refine ⟨hprogram, hindex, fun hr => ?_, fun hr => ⟨fun hi => ?_, fun v hi => ?_, fun hi => ?_, fun hi => ?_⟩⟩
  · rw [step_eq_executeEdge, executeEdge_of_rst hr] at h
    cases h
    exact ⟨rfl, rfl⟩
  · cases exec_of_step h hr hi
    exact ⟨rfl, rfl⟩
  · rw [eq_of_exec_write (exec_of_step h hr hi)]
    exact ⟨rfl, rfl⟩
  · rw [eq_of_exec_sum (exec_of_step h hr hi)]
    exact ⟨rfl, rfl⟩
  · cases exec_of_step h hr hi
    exact ⟨rfl, rfl⟩

theorem maskedSum_initial : maskedSum Config.initial = 0xB704CE#24 := by decide

/-- The port after an assignment of `INITIAL` (R22). -/
theorem State.sumPort_initialise (s : State) : s.initialise.sumPort = some 0xB704CE#24 := by
  rw [State.sumPort_of_ready _ rfl, State.initialise_crc, maskedSum_initial]

/-- Settles O29: RESET, the hardware reset and construction make the same assignment. -/
theorem resetValues : Obligations.ResetValues := by
  have hupper : Config.initial.extractLsb' 24 8 = 0#8 := by decide
  refine ⟨fun s t h => ?_, fun s => ⟨rfl, s.sumPort_initialise, hupper⟩, rfl, State.reset.sumPort_initialise,
    fun content s => State.sumPort_of_unready _ rfl⟩
  cases h
  exact ⟨rfl, s.sumPort_initialise, hupper⟩

/-! ### The engine with 24 flip-flops (R16) -/

/-- A shift-and-reduce step commutes with dropping bits 31 to 24: the tested bit and the taps are below them. -/
theorem setWidth_shift1 (c : Word) : (shift1 c).setWidth 24 = shift1Narrow (c.setWidth 24) := by
  have hpoly : Config.polynomial.setWidth 24 = Config.poly24 := by decide
  have htest : (c.setWidth 24).getLsbD 23 = c.getLsbD 23 := by simp
  have hshift : (c <<< 1).setWidth 24 = c.setWidth 24 <<< 1 := BitVec.setWidth_shiftLeft_of_le (by decide)
  rw [shift1_eq_xor, shift1Narrow, BitVec.setWidth_xor, htest, hshift]
  cases c.getLsbD 23 <;> simp [hpoly]

theorem setWidth_xorIn (c : Word) (v : Byte) : (xorIn c v).setWidth 24 = xorIn24 (c.setWidth 24) v := by
  have hshift : (operandWord v).setWidth 24 = v.setWidth 24 <<< Config.byteShift := by
    rw [operandWord, BitVec.setWidth_shiftLeft_of_le (by decide), BitVec.setWidth_setWidth_of_le _ (by decide)]
  rw [xorIn, xorIn24, BitVec.setWidth_xor, hshift]

/-- The transition for a byte commutes with dropping bits 31 to 24. -/
theorem setWidth_byteStep (c : Word) (v : Byte) : (byteStep c v).setWidth 24 = byteStep24 (c.setWidth 24) v := by
  have hsteps : Function.Semiconj (BitVec.setWidth 24) (shift1^[Config.stepsPerByte])
      (shift1Narrow^[Config.stepsPerByte]) :=
    Function.Semiconj.iterate_right setWidth_shift1 _
  rw [byteStep, byteStep24, ← setWidth_xorIn]
  exact hsteps (xorIn c v)

theorem State.narrow_setCrc (s : State) (v : Word) :
    (s.setCrc v).narrow = { s.narrow with crc24 := v.setWidth 24 } := rfl

/-- SUM delivers the same value on both engines: bits 31 to 24 are no part of it (R61). -/
theorem State.narrow_deliver (s : State) :
    (s.deliver (maskedSum s.crc)).narrow = { s.narrow with returned := s.narrow.returned ++ [s.narrow.crc24] } := by
  rw [maskedSum_eq_setWidth]
  rfl

/-- Each command has the same effect on the two engines, refusals included. -/
theorem narrowOutcome_exec (i : Instr) (s : State) : narrowOutcome (exec i s) = exec24 i s.narrow := by
  cases i with
  | nop => rfl
  | reset => rfl
  | write v =>
    rw [exec_write]
    obtain ⟨hs, he⟩ | ⟨hs, he⟩ := onceReset_cases s (s.setCrc (byteStep s.crc v)) <;>
      have hn : s.narrow.phase = _ := hs
    · simp only [he, exec24, hn, narrowOutcome]
    · simp only [he, exec24, hn, narrowOutcome, State.narrow_setCrc, setWidth_byteStep]
      rfl
  | sum =>
    rw [exec_sum]
    obtain ⟨hs, he⟩ | ⟨hs, he⟩ := onceReset_cases s (s.deliver (maskedSum s.crc)) <;>
      have hn : s.narrow.phase = _ := hs
    · simp only [he, exec24, hn, narrowOutcome]
    · simp only [he, exec24, hn, narrowOutcome, State.narrow_deliver]

/-- The simulation's one step: each edge takes the two engines to the same outcome. -/
theorem narrowOutcome_step (s : State) : narrowOutcome (step s) = step24 s.narrow := by
  have hstep24 : step24 s.narrow =
      if s.presented.rst then .next s.advance.initialise.narrow
      else exec24 (decode s.presented.cmd) s.advance.narrow := rfl
  rw [step_eq_executeEdge, hstep24]
  cases hr : s.presented.rst with
  | true => rw [executeEdge_of_rst hr]; rfl
  | false => rw [executeEdge_of_command hr, narrowOutcome_exec]; rfl

/-- The simulation, for every number of edges. -/
theorem narrowOutcome_runFor (k : Nat) (s : State) : narrowOutcome (runFor k s) = run24 k s.narrow := by
  induction k generalizing s with
  | zero => rfl
  | succ k ih =>
    rw [run24, ← narrowOutcome_step]
    cases hs : step s with
    | next t => rw [runFor_succ_of_next hs, ih]; rfl
    | fault r => exact absurd hs (step_ne_fault s r)
    | refused r => rw [runFor_succ_of_refused hs]; rfl

/-- Settles O32, by a simulation whose relation, dropping bits 31 to 24, commutes with each step. -/
theorem narrowEngineAgrees : Obligations.NarrowEngineAgrees :=
  ⟨setWidth_shift1, setWidth_xorIn, narrowOutcome_runFor⟩

/-! ### The register is that of the bytes since the last reset (R24) -/

/-- R24's invariant: a reset has happened, and the register is that of the bytes written since the last one. -/
def State.HoldsMessage (s : State) (bytes : List Byte) : Prop :=
  s.phase = .afterReset ∧ s.crc = writeAll Config.initial bytes

theorem State.HoldsMessage.sumPort {s : State} {bytes : List Byte} (h : s.HoldsMessage bytes) :
    s.sumPort = some (checksum bytes) := by
  obtain ⟨hready, hcrc⟩ := h
  rw [State.sumPort_of_ready s hready, hcrc, checksum]

/-- The bytes since the last reset, one edge at a time. -/
theorem bytesSinceReset_cons (sofar : List Byte) (e : Edge) (p : List Edge) :
    bytesSinceReset sofar (e :: p) = bytesSinceReset (bytesSinceReset sofar [e]) p := by
  cases hr : e.rst with
  | true => simp [bytesSinceReset, hr]
  | false => cases hi : decode e.cmd <;> simp [bytesSinceReset, hr, hi]

/-- What the SUM commands are owed, one edge at a time. -/
theorem owedSums_cons (sofar : List Byte) (e : Edge) (p : List Edge) :
    owedSums sofar (e :: p) = owedSums sofar [e] ++ owedSums (bytesSinceReset sofar [e]) p := by
  cases hr : e.rst with
  | true => simp [owedSums, bytesSinceReset, hr]
  | false => cases hi : decode e.cmd <;> simp [owedSums, bytesSinceReset, hr, hi]

/-- One edge, of any kind, keeps R24's invariant, and returns what a SUM at that edge is owed. -/
theorem executeEdge_holdsMessage (e : Edge) {s : State} {sofar : List Byte} (hs : s.HoldsMessage sofar) :
    ∃ t, executeEdge e s = .next t ∧ t.HoldsMessage (bytesSinceReset sofar [e]) ∧
      t.returned = s.returned ++ owedSums sofar [e] := by
  obtain ⟨hready, hcrc⟩ := hs
  cases hr : e.rst with
  | true =>
    refine ⟨s.initialise, executeEdge_of_rst hr s, ?_⟩
    simp [State.HoldsMessage, bytesSinceReset, owedSums, hr]
  | false =>
    rw [executeEdge_of_command hr]
    cases hi : decode e.cmd with
    | nop =>
      refine ⟨s, exec_nop s, ?_⟩
      simp [State.HoldsMessage, bytesSinceReset, owedSums, hr, hi, hready, hcrc]
    | reset =>
      refine ⟨s.initialise, exec_reset s, ?_⟩
      simp [State.HoldsMessage, bytesSinceReset, owedSums, hr, hi]
    | write v =>
      refine ⟨s.setCrc (byteStep s.crc v), onceReset_of_ready hready, ?_⟩
      simp [State.HoldsMessage, bytesSinceReset, owedSums, hr, hi, hready, hcrc, writeAll_snoc]
    | sum =>
      refine ⟨s.deliver (maskedSum s.crc), onceReset_of_ready hready, ?_⟩
      simp [State.HoldsMessage, bytesSinceReset, owedSums, hr, hi, hready, hcrc, checksum]

/-- Over any edges the run completes, R24's invariant is kept, and every SUM returns what it is owed. -/
theorem runFor_holdsMessage (p : List Edge) {s : State} {sofar : List Byte} {rest : List Edge}
    (hs : s.HoldsMessage sofar) (hup : s.upcoming = p ++ rest) :
    ∃ t, runFor p.length s = .next t ∧ t.HoldsMessage (bytesSinceReset sofar p) ∧
      t.returned = s.returned ++ owedSums sofar p := by
  induction p generalizing s sofar with
  | nil => exact ⟨s, rfl, hs, (List.append_nil _).symm⟩
  | cons e p ih =>
    have hadvance : s.advance.HoldsMessage sofar := hs
    obtain ⟨u, hedge, hu, hureturned⟩ := executeEdge_holdsMessage e hadvance
    have hstep : step s = .next u := by rw [step_eq_executeEdge, State.presented_of_cons hup, hedge]
    obtain ⟨hupcoming, -, -⟩ := step_host_side hstep
    obtain ⟨t, hrun, ht, htreturned⟩ := ih hu (by rw [hupcoming, hup]; rfl)
    refine ⟨t, (runFor_succ_of_next hstep p.length).trans hrun, ?_, ?_⟩
    · rwa [bytesSinceReset_cons]
    · rw [htreturned, hureturned, owedSums_cons sofar e p, List.append_assoc, State.advance_returned]

/-- Settles O33, by induction on the edges with R24's invariant. -/
theorem everySumIsTheChecksumSinceReset : Obligations.EverySumIsTheChecksumSinceReset := by
  intro s sofar p rest hready hcrc hup
  obtain ⟨t, hrun, ht, hreturned⟩ := runFor_holdsMessage p ⟨hready, hcrc⟩ hup
  exact ⟨t, hrun, ht.2, ht.sumPort, hreturned⟩

/-! ### Platforms (R26, R94) -/

/-- Every engine of the platform has been reset. -/
def Platform.Ready (p : Platform) : Prop := ∀ s ∈ p.engines, s.phase = .afterReset

/-- A step of a platform of ready engines completes: log 14's refusal cannot come up. -/
theorem Platform.stepEngine_of_ready {p : Platform} (hp : p.Ready) (j : Nat) : ∃ q, p.stepEngine j = .next q := by
  unfold Platform.stepEngine
  cases hj : p.engines[j]? with
  | none => exact ⟨p, rfl⟩
  | some s =>
    obtain ⟨t, ht, -⟩ := step_of_ready (hp s (List.mem_of_getElem? hj))
    exact ⟨{ engines := p.engines.set j t }, by simp only [ht]⟩

theorem Platform.stepEngine_keeps_ready {p q : Platform} {j : Nat} (hp : p.Ready) (h : p.stepEngine j = .next q) :
    q.Ready := by
  obtain ⟨-, rfl⟩ | ⟨s, t, hj, hstep, rfl⟩ := Platform.stepEngine_next_cases h
  · exact hp
  · intro u hu
    obtain hmem | rfl := List.mem_or_eq_of_mem_set hu
    · exact hp u hmem
    · exact step_keeps_ready (hp s (List.mem_of_getElem? hj)) hstep

theorem Platform.stepEngine_length {p q : Platform} {j : Nat} (h : p.stepEngine j = .next q) :
    q.engines.length = p.engines.length := by
  obtain ⟨-, rfl⟩ | ⟨s, t, -, -, rfl⟩ := Platform.stepEngine_next_cases h
  · rfl
  · exact List.length_set

/-- The engine that moves takes one step of its own. -/
theorem Platform.stepEngine_same {p q : Platform} {j : Nat} {s : State} (h : p.stepEngine j = .next q)
    (hs : p.engines[j]? = some s) : ∃ t, step s = .next t ∧ q.engines[j]? = some t := by
  obtain ⟨hj, -⟩ | ⟨s', t, hj, hstep, rfl⟩ := Platform.stepEngine_next_cases h
  · simp [hs] at hj
  · obtain rfl : s = s' := Option.some.inj (hs.symm.trans hj)
    obtain ⟨hlt, -⟩ := List.getElem?_eq_some_iff.1 hs
    exact ⟨t, hstep, List.getElem?_set_self hlt⟩

/-- The other engines stay where they are. -/
theorem Platform.stepEngine_other {p q : Platform} {i j : Nat} (h : p.stepEngine j = .next q) (hij : j ≠ i) :
    q.engines[i]? = p.engines[i]? := by
  obtain ⟨-, rfl⟩ | ⟨s, t, -, -, rfl⟩ := Platform.stepEngine_next_cases h
  · rfl
  · exact List.getElem?_set_ne hij

/-- Every schedule of a platform of ready engines completes, and moves each engine by its own steps alone. -/
theorem Platform.run_of_ready (schedule : List Nat) {p : Platform} (hp : p.Ready) :
    ∃ q, p.run schedule = .next q ∧ q.engines.length = p.engines.length ∧
      ∀ (i : Nat) (s : State), p.engines[i]? = some s →
        ∃ t, runFor (schedule.count i) s = .next t ∧ q.engines[i]? = some t := by
  induction schedule generalizing p with
  | nil => exact ⟨p, rfl, rfl, fun i s hs => ⟨s, rfl, hs⟩⟩
  | cons j schedule ih =>
    obtain ⟨p', hstep⟩ := Platform.stepEngine_of_ready hp j
    obtain ⟨q, hrun, hlength, hq⟩ := ih (Platform.stepEngine_keeps_ready hp hstep)
    refine ⟨q, by simp only [Platform.run, hstep, hrun], hlength.trans (Platform.stepEngine_length hstep), ?_⟩
    intro i s hs
    by_cases hij : j = i
    · subst hij
      obtain ⟨s', hown, hs'⟩ := Platform.stepEngine_same hstep hs
      obtain ⟨t, ht, hqt⟩ := hq j s' hs'
      exact ⟨t, by rw [List.count_cons_self, runFor_succ_of_next hown, ht], hqt⟩
    · rw [List.count_cons_of_ne hij]
      exact hq i s ((Platform.stepEngine_other hstep hij).trans hs)

/-- Settles O40, by induction on the schedule. -/
theorem enginesShareNothing : Obligations.EnginesShareNothing := by
  refine ⟨⟨?_, fun s hs => List.eq_of_mem_replicate hs⟩, fun p schedule hp => Platform.run_of_ready schedule hp⟩
  simp [Platform.reset, Config.instanceCount]

end Sys2Proof.Machine

/-! ## The memory family (`20_memory.md`): reading has no side effect, and the sum as bytes and as text -/

namespace Sys2Proof.Machine

/-! ### Stretches of SUM and NOP edges (R36) -/

/-- What stands at the ports when the host only reads or waits: `rst` = 0 and a SUM or a NOP word. -/
def Edge.Reads (e : Edge) : Prop := e.rst = false ∧ (decode e.cmd = .nop ∨ decode e.cmd = .sum)

/-- The host has received the sum `k` times more, and nothing else is changed. -/
def State.deliverSums (s : State) (k : Nat) : State :=
  { s with returned := s.returned ++ List.replicate k (maskedSum s.crc) }

@[simp] theorem State.deliverSums_zero (s : State) : s.deliverSums 0 = s := by
  simp [State.deliverSums]

@[simp] theorem State.deliverSums_one (s : State) : s.deliverSums 1 = s.deliver (maskedSum s.crc) := rfl

/-- Deliveries add up: none of them changes what the next one delivers. -/
theorem State.deliverSums_add (s : State) (j k : Nat) : s.deliverSums (j + k) = (s.deliverSums j).deliverSums k := by
  simp [State.deliverSums]

/-- How many sums the SUM commands among the edges deliver. -/
def sumCount (p : List Edge) : Nat := p.countP (fun e => decode e.cmd == .sum)

theorem sumCount_cons (e : Edge) (p : List Edge) : sumCount (e :: p) = sumCount [e] + sumCount p := by
  rw [sumCount, sumCount, sumCount, ← List.countP_append, List.singleton_append]

/-- A SUM or NOP edge completes in a ready state and does nothing but deliver the sum, if it is a SUM. -/
theorem executeEdge_of_reads {e : Edge} {s : State} (hready : s.phase = .afterReset) (he : e.Reads) :
    executeEdge e s = .next (s.deliverSums (sumCount [e])) := by
  obtain ⟨hr, hi | hi⟩ := he <;> rw [executeEdge_of_command hr, hi]
  · simp [sumCount, hi]
  · simp [sumCount, hi, exec_sum, onceReset_of_ready hready]

/-- Over a stretch of SUM and NOP edges only the index and the returned values change (R36). -/
theorem runFor_of_reads (p : List Edge) {s : State} {rest : List Edge} (hready : s.phase = .afterReset)
    (hup : s.upcoming = p ++ rest) (hp : ∀ e ∈ p, e.Reads) :
    runFor p.length s = .next { s.deliverSums (sumCount p) with index := s.index + p.length } := by
  induction p generalizing s with
  | nil => simp [sumCount]
  | cons e p ih =>
    obtain ⟨he, hp⟩ := List.forall_mem_cons.1 hp
    have hadvance : s.advance.phase = .afterReset := hready
    have hstep : step s = .next (s.advance.deliverSums (sumCount [e])) := by
      rw [step_eq_executeEdge, State.presented_of_cons hup, executeEdge_of_reads hadvance he]
    obtain ⟨hupcoming, -, hindex⟩ := step_host_side hstep
    rw [hup] at hupcoming
    rw [List.length_cons, runFor_succ_of_next hstep, ih (step_keeps_ready hready hstep) hupcoming hp,
      ← State.deliverSums_add, ← sumCount_cons, hindex, Nat.add_assoc, Nat.add_comm 1]
    rfl

/-- RESET after RESET changes nothing (R36). -/
theorem exec_reset_idempotent {s t : State} (h : exec .reset s = .next t) : exec .reset t = .next t := by
  cases h
  rfl

/-- Settles O24, by induction on the edges; writing 0x00 once and twice after a reset gives two sums. -/
theorem readingHasNoSideEffect : Obligations.ReadingHasNoSideEffect := by
  refine ⟨fun s p rest hready hup hp => runFor_of_reads p hready hup hp, fun s t h => exec_reset_idempotent h,
    0x00#8, State.reset, _, _, rfl, rfl, ?_⟩
  decide

/-! ### The three bytes of the sum (R32) -/

/-- Eight bits taken out are the low byte of a shift. -/
theorem extractLsb'_eq_setWidth_shift (s : Sum24) (k : Nat) : s.extractLsb' k 8 = (s >>> k).setWidth 8 := by
  apply BitVec.eq_of_toNat_eq
  simp [BitVec.extractLsb'_toNat]

/-- The three bytes as shifts of the sum, most significant first. -/
theorem sumBytes_eq_shifts (s : Sum24) :
    sumBytes s = [(s >>> 16).setWidth 8, (s >>> 8).setWidth 8, s.setWidth 8] := by
  simp [sumBytes, extractLsb'_eq_setWidth_shift]

/-- The three bytes make the sum again. -/
theorem sumOfBytes_sumBytes (s : Sum24) : sumOfBytes (sumBytes s) = some s := by
  have htop : s.extractLsb' 16 8 ++ s.extractLsb' 8 8 = s.extractLsb' 8 16 :=
    BitVec.extractLsb'_append_extractLsb'_eq_extractLsb' rfl
  have hall : s.extractLsb' 8 16 ++ s.extractLsb' 0 8 = s.extractLsb' 0 24 :=
    BitVec.extractLsb'_append_extractLsb'_eq_extractLsb' rfl
  simp [sumOfBytes, sumBytes, htop, hall]

theorem sumBytes_injective : Function.Injective sumBytes :=
  fun s s' h => Option.some.inj (by rw [← sumOfBytes_sumBytes, h, sumOfBytes_sumBytes])

/-! ### Digits and their values (R78, R79) -/

/-- An alphabet with no character twice gives each place of it back from the character there. -/
theorem findIdx?_getD_of_nodup {alphabet : Text} (hnodup : alphabet.Nodup) {i : Nat} (hi : i < alphabet.length)
    (c : Char) : alphabet.findIdx? (fun d => d == alphabet.getD i c) = some i := by
  rw [List.findIdx?_eq_some_iff_getElem]
  refine ⟨hi, by simp [hi], fun j hj => ?_⟩
  simp [hi, hnodup.getElem_inj_iff, hj.ne]

@[simp] theorem hexValue_hexDigit (d : BitVec 4) : hexValue (hexDigit d) = some d.toNat :=
  findIdx?_getD_of_nodup (by decide) d.isLt _

@[simp] theorem base64Value_base64Char (g : BitVec 6) : base64Value (base64Char g) = some g.toNat :=
  findIdx?_getD_of_nodup (by decide) g.isLt _

/-! ### Reading the lines back (R81) -/

/-- The four bits from `k` up, after the bits above them, spell the bits from `k` up. -/
theorem shiftRight_spell_digit (s : Sum24) (k : Nat) :
    16 * (s.toNat >>> (k + 4)) + (s.extractLsb' k 4).toNat = s.toNat >>> k := by
  rw [BitVec.extractLsb'_toNat, Nat.shiftRight_add, Nat.shiftRight_eq_div_pow _ 4]
  omega

/-- Reading one more digit of the sum takes what is read from the bits above `k + 4` to the bits from `k` up. -/
theorem parseHex_digit (s : Sum24) (k : Nat) (rest : Text) :
    parseHex (s.toNat >>> (k + 4)) (hexDigit (s.extractLsb' k 4) :: rest) = parseHex (s.toNat >>> k) rest := by
  simp only [parseHex, hexValue_hexDigit, shiftRight_spell_digit]

/-- The hexadecimal line parses to the sum's integer: nothing stands above bit 23, and each digit reads four bits. -/
theorem readHexLine_hexLine (s : Sum24) : readHexLine (hexLine s) = some s.toNat := by
  have htop : s.toNat >>> 24 = 0 := Nat.shiftRight_eq_zero _ _ s.isLt
  calc readHexLine (hexLine s) = parseHex 0 (hexLine s).dropLast := if_pos rfl
    _ = parseHex (s.toNat >>> 24) (hexLine s).dropLast := by rw [htop]
    _ = parseHex (s.toNat >>> 0) [] := by
      simp only [hexLine, List.dropLast, parseHex_digit s 20, parseHex_digit s 16, parseHex_digit s 12,
        parseHex_digit s 8, parseHex_digit s 4, parseHex_digit s 0]

/-- A group of base64 decodes to its three bytes: the six-bit pieces, cut at bytes, are the bytes' own pieces. -/
theorem base64Bytes_base64Group (b0 b1 b2 : Byte) : base64Bytes (base64Group b0 b1 b2) = some [b0, b1, b2] := by
  have h0 : b0.extractLsb' 2 6 ++ b0.extractLsb' 0 2 = b0 := BitVec.extractLsb'_append_extractLsb'
  have h1 : b1.extractLsb' 4 4 ++ b1.extractLsb' 0 4 = b1 := BitVec.extractLsb'_append_extractLsb'
  have h2 : b2.extractLsb' 6 2 ++ b2.extractLsb' 0 6 = b2 := BitVec.extractLsb'_append_extractLsb'
  simp only [base64Bytes, base64Group, base64Value_base64Char, BitVec.ofNat_toNat, BitVec.setWidth_eq,
    BitVec.extractLsb'_append_eq_left, BitVec.extractLsb'_append_eq_right, h0, h1, h2]

/-- The base64 line decodes to the sum's three bytes. -/
theorem readBase64Line_base64Line (s : Sum24) : readBase64Line (base64Line s) = some (sumBytes s) := by
  simp [readBase64Line, base64Line, base64Bytes_base64Group, sumBytes]

theorem hexLine_injective : Function.Injective hexLine :=
  fun s s' h => BitVec.eq_of_toNat_eq (Option.some.inj (by rw [← readHexLine_hexLine, h, readHexLine_hexLine]))

theorem base64Line_injective : Function.Injective base64Line :=
  fun s s' h => sumBytes_injective
    (Option.some.inj (by rw [← readBase64Line_base64Line, h, readBase64Line_base64Line]))

/-- Settles O41: each reader inverts its rendering, so each rendering is injective. -/
theorem renderingsReadBack : Obligations.RenderingsReadBack :=
  ⟨fun s => ⟨sumBytes_eq_shifts s, sumOfBytes_sumBytes s⟩, readHexLine_hexLine, readBase64Line_base64Line,
    fun _ _ h => hexLine_injective h, fun _ _ h => base64Line_injective h⟩

end Sys2Proof.Machine

/-! ## The encoding family (`30_encoding.md`): decoder and encoder, text, sequences, and what an edge executes -/

namespace Sys2Proof

/-! ### The fields of a word (R43) -/

/-- A word is put together from its own fields and from no others. -/
theorem wordOf_eq_iff (op : BitVec 2) (data : Byte) (w : CommandWord) :
    wordOf op data = w ↔ op = opField w ∧ data = dataField w := by
  constructor
  · rintro rfl
    exact ⟨(Laws.opField_wordOf op data).symm, (Laws.dataField_wordOf op data).symm⟩
  · rintro ⟨rfl, rfl⟩
    exact Laws.wordOf_fields w

/-- Fields beside each other: a concatenation as an unsigned number. -/
theorem toNat_wordOf (op : BitVec 2) (data : Byte) : (wordOf op data).toNat = 256 * op.toNat + data.toNat := by
  rw [wordOf, BitVec.toNat_append, ← Nat.shiftLeft_add_eq_or_of_lt data.isLt, Nat.shiftLeft_eq, Nat.mul_comm]

/-! ### The decoder (R46) -/

/-- What the four values of the selector decode to, and nothing else is decoded to. -/
theorem decode_cases (w : CommandWord) :
    (opField w = 0b00#2 ∧ decode w = .nop) ∨ (opField w = 0b01#2 ∧ decode w = .reset) ∨
      (opField w = 0b10#2 ∧ decode w = .write (dataField w)) ∨ (opField w = 0b11#2 ∧ decode w = .sum) := by
  have hop : ∀ op : BitVec 2, op = 0b00#2 ∨ op = 0b01#2 ∨ op = 0b10#2 ∨ op = 0b11#2 := by decide
  obtain h | h | h | h := hop (opField w) <;> simp [decode, h]

/-- The decoder keeps the selector. -/
theorem opcode_decode (w : CommandWord) : opcode (decode w) = opField w := by
  obtain ⟨hop, hi⟩ | ⟨hop, hi⟩ | ⟨hop, hi⟩ | ⟨hop, hi⟩ := decode_cases w <;> rw [hop, hi, opcode]

/-- The decoder keeps the data of a WRITE only. -/
theorem canonicalData_decode (w : CommandWord) :
    canonicalData (decode w) = if opField w = 0b10#2 then dataField w else 0#8 := by
  obtain ⟨hop, hi⟩ | ⟨hop, hi⟩ | ⟨hop, hi⟩ | ⟨hop, hi⟩ := decode_cases w <;> simp [hop, hi, canonicalData]

/-- Settles O2, by the cases of the decoder. -/
theorem opFieldSelectsTheOperation : Obligations.OpFieldSelectsTheOperation := by
  intro w
  have hop : w.extractLsb' 8 2 = opField w := rfl
  have hdata : w.extractLsb' 0 8 = dataField w := rfl
  rw [hop, hdata]
  obtain ⟨h, hi⟩ | ⟨h, hi⟩ | ⟨h, hi⟩ | ⟨h, hi⟩ := decode_cases w <;> simp [h, hi]

/-! ### Decoding and encoding (R44, R48) -/

@[simp] theorem decode_encode (i : Instr) : decode (encode i) = i := by
  rw [encode, Laws.decode_wordOf]
  cases i <;> rfl

/-- The canonical words are the words that the encoder gives back. -/
theorem encode_decode_eq_iff (w : CommandWord) : encode (decode w) = w ↔ isCanonicalWord w = true := by
  rw [encode, wordOf_eq_iff, opcode_decode, canonicalData_decode, isCanonicalWord, Bool.or_eq_true, beq_iff_eq,
    beq_iff_eq]
  by_cases hop : opField w = 0b10#2
  · simp [hop]
  · simp [hop, eq_comm]

/-- The word of WRITE as a sum: its selector and its byte do not overlap. -/
theorem encode_write (v : Byte) : encode (.write v) = 0x200#10 + v.setWidth 10 := by
  apply BitVec.eq_of_toNat_eq
  have hv : v.toNat < 256 := v.isLt
  rw [encode, toNat_wordOf, BitVec.toNat_add, BitVec.toNat_setWidth]
  simp only [opcode, canonicalData, BitVec.toNat_ofNat]
  omega

/-- A number that fits the port decodes as its word. -/
theorem decodeTableWord_of_lt {w : Nat} (hw : w < 1024) (nbits : Nat) :
    decodeTableWord nbits w = some (decode (BitVec.ofNat 10 w)) := by
  simp [decodeTableWord, decodeNumber, isCommandWord, hw]

/-- Settles O1: the selector and the data of WRITE pass through both ways; the other data come back as zero. -/
theorem decodeInvertsEncode : Obligations.DecodeInvertsEncode := by
  refine ⟨fun i _ => ⟨decode_encode i, ?_⟩, encode_decode_eq_iff⟩
  rw [decodeTableWord_of_lt (encode i).isLt, BitVec.ofNat_toNat, BitVec.setWidth_eq, decode_encode]

/-! ### No illegal word, and 256 words for each operation (R47) -/

/-- Of a command other than WRITE the words are those with its selector, whatever their data. -/
theorem decode_eq_iff_opField {i : Instr} (hi : ∀ v, i ≠ .write v) (w : CommandWord) :
    decode w = i ↔ opField w = opcode i := by
  constructor
  · rintro rfl
    exact (opcode_decode w).symm
  · intro h
    cases i with
    | write v => exact absurd rfl (hi v)
    | nop | reset | sum => simp [decode, h, opcode]

/-- Of WRITE of a byte the only word is its encoding: a WRITE word has no ignored data. -/
theorem decode_eq_write_iff (w : CommandWord) (v : Byte) : decode w = .write v ↔ w = encode (.write v) := by
  constructor
  · intro h
    have hop : opField w = 0b10#2 := by rw [← opcode_decode, h, opcode]
    have hcanonical : isCanonicalWord w = true := by simp [isCanonicalWord, hop]
    rw [← h, (encode_decode_eq_iff w).2 hcanonical]
  · rintro rfl
    exact decode_encode _

/-- Every selector other than WRITE's ignores the data. -/
theorem decode_wordOf_congr {op : BitVec 2} (hop : op ≠ 0b10#2) (d d' : Byte) :
    decode (wordOf op d) = decode (wordOf op d') := by
  simp [Laws.decode_wordOf, hop]

/-- Each selector stands in 256 words, one for each value of the data. -/
theorem length_filter_opField (op : BitVec 2) :
    ((List.finRange 1024).filter (fun w => opField (BitVec.ofFin w) == op)).length = 256 := by
  have hinjective : Function.Injective (fun d : Fin 256 => (wordOf op (BitVec.ofFin d)).toFin) := by
    intro d d' h
    obtain ⟨-, hdata⟩ := (wordOf_eq_iff _ _ _).1 (BitVec.toFin_inj.1 h)
    rw [Laws.dataField_wordOf] at hdata
    exact congrArg BitVec.toFin hdata
  have hperm : ((List.finRange 1024).filter (fun w => opField (BitVec.ofFin w) == op)).Perm
      ((List.finRange 256).map (fun d => (wordOf op (BitVec.ofFin d)).toFin)) := by
    rw [List.perm_ext_iff_of_nodup ((List.nodup_finRange _).filter _) ((List.nodup_finRange _).map hinjective)]
    intro w
    suffices opField (BitVec.ofFin w) = op ↔ ∃ d : Fin 256, (wordOf op (BitVec.ofFin d)).toFin = w by simpa
    constructor
    · rintro rfl
      exact ⟨(dataField (BitVec.ofFin w)).toFin, congrArg BitVec.toFin (Laws.wordOf_fields (BitVec.ofFin w))⟩
    · rintro ⟨d, rfl⟩
      exact Laws.opField_wordOf op (BitVec.ofFin d)
  rw [hperm.length_eq, List.length_map, List.length_finRange]

/-- Each command other than WRITE has 256 words. -/
theorem length_filter_decode {i : Instr} (hi : ∀ v, i ≠ .write v) :
    ((List.finRange 1024).filter (fun w => decode (BitVec.ofFin w) == i)).length = 256 := by
  rw [← length_filter_opField (opcode i)]
  refine congrArg List.length (List.filter_congr fun w _ => ?_)
  rw [Bool.eq_iff_iff, beq_iff_eq, beq_iff_eq, decode_eq_iff_opField hi]

end Sys2Proof

namespace Sys2Proof.Machine

/-! ### What a word does is what it decodes to (R47, R48) -/

/-- Words that decode alike do alike, in every state: an edge sees no more of its word than the decoder does. -/
theorem executeEdge_congr {w w' : CommandWord} (h : decode w = decode w') (s : State) :
    executeEdge { rst := false, cmd := w } s = executeEdge { rst := false, cmd := w' } s := by
  simp only [executeEdge_of_command, h]

/-- Settles O4: only the selector counts, but for WRITE, whose data are its byte. -/
theorem everyWordIsACommand : Obligations.EveryWordIsACommand := by
  refine ⟨fun w hw => ⟨_, decodeTableWord_of_lt hw 16⟩, fun op d d' s hop => ?_,
    length_filter_decode nofun, length_filter_decode nofun, length_filter_decode nofun,
    fun v => ⟨encode (.write v), decode_encode _, fun w hw => (decode_eq_write_iff w v).1 hw⟩⟩
  have hdecode := decode_wordOf_congr hop d d'
  exact ⟨hdecode, executeEdge_congr hdecode s⟩

/-- Settles O5: a word and the canonical word of its operation decode alike, so they behave alike. -/
theorem canonicalWords : Obligations.CanonicalWords := by
  refine ⟨by decide, by decide, by decide, encode_write, by decide, fun w hw => ?_, fun w s => ?_⟩
  · rw [disassemble, hw]
    rfl
  · exact executeEdge_congr (decode_encode (decode w)).symm s

/-! ### Reading a printed line back (R52) -/

@[simp] theorem skipBlanks_blank (t : Text) : skipBlanks (' ' :: t) = skipBlanks t := rfl

@[simp] theorem skipBlanks_cons_of_ne {c : Char} (hc : c ≠ ' ') (t : Text) : skipBlanks (c :: t) = c :: t :=
  List.dropWhile_cons_of_neg (by simpa using hc)

@[simp] theorem skipBlanks_byteText_append (v : Byte) (t : Text) :
    skipBlanks (byteText v ++ t) = byteText v ++ t := rfl

/-- Where a line may end there is nothing, a blank or a comment. -/
theorem head?_of_atEnd {t : Text} (h : atEnd t = true) : ∀ c ∈ t.head?, c = ' ' ∨ c = ';' := by
  cases t with
  | nil => simp
  | cons d rest =>
    rintro c ⟨⟩
    by_cases hblank : d = ' '
    · exact .inl hblank
    · refine .inr ?_
      rw [atEnd, skipBlanks_cons_of_ne hblank] at h
      split at h
      · contradiction
      · next hcons => exact (List.cons.inj hcons).1
      · contradiction

/-- A scan that takes neither blanks nor semicolons takes nothing where a line may end. -/
theorem takeWhile_of_atEnd {p : Char → Bool} (hblank : p ' ' = false) (hsemicolon : p ';' = false) {tail : Text}
    (h : atEnd tail = true) : tail.takeWhile p = [] := by
  cases tail with
  | nil => rfl
  | cons c rest =>
    have hc : p c = false := by
      obtain rfl | rfl := head?_of_atEnd h c rfl
      · exact hblank
      · exact hsemicolon
    simp [hc]

theorem isDigit_hexDigit (d : BitVec 4) : isDigit 16 (hexDigit d) = true := by
  simp [isDigit, d.isLt]

/-- The two digits of a byte spell it. -/
theorem digitsValue_byte (v : Byte) :
    digitsValue 16 [hexDigit (v.extractLsb' 4 4), hexDigit (v.extractLsb' 0 4)] = v.toNat := by
  have hv : v.toNat < 256 := v.isLt
  simp only [digitsValue, List.foldl, hexValue_hexDigit, Option.getD_some, BitVec.extractLsb'_toNat,
    Nat.shiftRight_eq_div_pow]
  omega

/-- A printed byte is read back, and the line is left at its end. -/
theorem readByte_byteText (v : Byte) {tail : Text} (htail : atEnd tail = true) :
    readByte (byteText v ++ tail) = some (v, tail) := by
  have hstop : tail.takeWhile (isDigit 16) = [] := takeWhile_of_atEnd (by decide) (by decide) htail
  have hread : readNumber 16 (hexDigit (v.extractLsb' 4 4) :: hexDigit (v.extractLsb' 0 4) :: tail) =
      some (v.toNat, tail) := by
    simp [readNumber, isDigit_hexDigit, hstop, digitsValue_byte]
  have hbyte : isByteOperand v.toNat = true := decide_eq_true (Nat.le_of_lt_succ v.isLt)
  simp [readByte, byteText, hread, hbyte]

/-- The printed command is read back, whatever comment follows. -/
theorem parseStatement_commandText (i : Instr) {tail : Text} (htail : atEnd tail = true) :
    parseStatement (commandText i ++ tail) = some (.command i) := by
  have hstop : tail.takeWhile (fun c => c.isAlphanum) = [] := takeWhile_of_atEnd (by decide) (by decide) htail
  cases i with
  | nop | reset | sum => simp [parseStatement, commandText, hstop, whenAtEnd, htail]
  | write v => simp [parseStatement, commandText, whenAtEnd, htail, readByte_byteText v htail]

/-- What a disassembler prints after the command of a non-canonical word is a comment. -/
theorem disassemble_eq_append (w : CommandWord) :
    ∃ tail, atEnd tail = true ∧ disassemble w = commandText (decode w) ++ tail := by
  unfold disassemble
  split
  · exact ⟨[], rfl, (List.append_nil _).symm⟩
  · exact ⟨_, rfl, by rw [List.append_assoc, List.append_assoc]⟩

/-- Settles O6: the printed command is read back, and the rest of the line is a comment. -/
theorem assemblerReadsDisassembly : Obligations.AssemblerReadsDisassembly := by
  intro w
  obtain ⟨tail, htail, hline⟩ := disassemble_eq_append w
  rw [hline, parseStatement_commandText (decode w) htail]

/-! ### Sequences of commands (R53, R54) -/

/-- A command's edge, seen through the decoder. -/
theorem Edge.ofInstr_decoded (i : Instr) : ((Edge.ofInstr i).rst, decode (Edge.ofInstr i).cmd) = (false, i) := by
  rw [Edge.ofInstr, decode_encode]

/-- Settles O7: expansions are as written, and the decoder gives each edge's command back. -/
theorem sequencesExpandToCommands : Obligations.SequencesExpandToCommands := by
  refine ⟨fun bytes => ⟨rfl, rfl, ?_⟩, fun n => ⟨List.length_replicate, fun i => List.eq_of_mem_replicate⟩,
    ?_, ?_, rfl⟩
  · rw [Call.edges, List.map_map]
    exact List.map_congr_left fun v _ => Edge.ofInstr_decoded (.write v)
  · exact congrArg (fun x => [x]) (Edge.ofInstr_decoded .reset)
  · exact congrArg (fun x => [x]) (Edge.ofInstr_decoded .sum)

/-! ### What an edge executes (R50) -/

theorem step_of_command {s : State} (h : s.presented.rst = false) :
    step s = exec (decode s.presented.cmd) s.advance := by
  rw [step_eq_executeEdge, executeEdge_of_command h]

theorem step_of_rst {s : State} (h : s.presented.rst = true) : step s = .next s.advance.initialise := by
  rw [step_eq_executeEdge, executeEdge_of_rst h]

/-- A command's word, offered as a number, is the command at the next edge. -/
theorem step_withFetchWord_encode (s : State) (nbits : Nat) (i : Instr) :
    step (s.withFetchWord nbits (encode i).toNat) = exec i (s.withFetchWord nbits (encode i).toNat).advance := by
  have hpresented : (s.withFetchWord nbits (encode i).toNat).presented = Edge.ofInstr i := by
    rw [State.withFetchWord, BitVec.ofNat_toNat, BitVec.setWidth_eq, State.presented_withCommand, Edge.ofInstr]
  have hrst : (s.withFetchWord nbits (encode i).toNat).presented.rst = false := by rw [hpresented, Edge.ofInstr]
  rw [step_of_command hrst, hpresented, Edge.ofInstr, decode_encode]

/-- Settles O19, by the two kinds of edge. -/
theorem stepRunsThePresentedCommand : Obligations.StepRunsThePresentedCommand :=
  ⟨fun _ h => step_of_command h, fun _ h => step_of_rst h, fun s i => step_withFetchWord_encode s 16 i⟩

/-- Settles O20: with no edge to come the idle edge is presented, whose word is a NOP. -/
theorem exhaustedProgramIdles : Obligations.ExhaustedProgramIdles := by
  intro s h
  have hup : s.upcoming = [] := List.drop_eq_nil_of_le h
  have hidle : decode Edge.idle.cmd = .nop := by decide
  rw [step_eq_executeEdge, State.presented_of_nil hup, executeEdge_of_command rfl, hidle, exec_nop]
  rfl

end Sys2Proof.Machine

/-! ## The operations family (`40_operations.md`): the primitives, the commands, and the sums of messages -/

namespace Sys2Proof.Machine

/-! ### The XOR of a byte into the register (R55) -/

theorem getLsbD_xorIn (c : Word) (v : Byte) (k : Nat) :
    (xorIn c v).getLsbD k = (c.getLsbD k ^^ (decide (k < 32) && !decide (k < 16) && v.getLsbD (k - 16))) := by
  rw [xorIn, BitVec.getLsbD_xor, getLsbD_operandWord]

theorem operandWord_xor (u v : Byte) : operandWord (u ^^^ v) = operandWord u ^^^ operandWord v := by
  rw [operandWord, BitVec.setWidth_xor, BitVec.shiftLeft_xor_distrib]
  rfl

theorem operandWord_zero : operandWord 0#8 = 0#32 := by decide

theorem xorIn_zero (c : Word) : xorIn c 0#8 = c := by
  rw [xorIn, operandWord_zero, BitVec.xor_zero]

/-- Two bytes XORed in one after the other are their XOR. -/
theorem xorIn_xorIn (c : Word) (u v : Byte) : xorIn (xorIn c u) v = xorIn c (u ^^^ v) := by
  rw [xorIn, xorIn, xorIn, operandWord_xor, BitVec.xor_assoc]

theorem xorIn_xor (a b : Word) (u v : Byte) : xorIn (a ^^^ b) (u ^^^ v) = xorIn a u ^^^ xorIn b v := by
  have hcomm : b ^^^ (operandWord u ^^^ operandWord v) = operandWord u ^^^ (b ^^^ operandWord v) := by
    rw [← BitVec.xor_assoc, BitVec.xor_comm b, BitVec.xor_assoc]
  simp only [xorIn, operandWord_xor, BitVec.xor_assoc, hcomm]

/-- Settles O8, bit by bit: the byte's bits land on bits 23 to 16. -/
theorem xorInChangesOnlyBits23To16 : Obligations.XorInChangesOnlyBits23To16 := by
  refine ⟨fun c v => ⟨rfl, fun i hi => ?_, fun k hk => ?_, xorIn_zero c, ?_⟩, by decide⟩
  · rw [getLsbD_xorIn]
    simp [show 16 + i < 32 by omega]
  · rw [getLsbD_xorIn]
    obtain hlow | hhigh := hk
    · simp [hlow]
    · simp [BitVec.getLsbD_of_ge v (k - 16) (by omega)]
  · rw [xorIn_xorIn, BitVec.xor_self, xorIn_zero]

/-! ### The shift-and-reduce step (R56, R57) -/

theorem shift1_of_bit23 {c : Word} (h : c.getLsbD 23 = true) : shift1 c = (c <<< 1) ^^^ Config.polynomial := by
  rw [shift1_eq_xor, if_pos h]

theorem shift1_of_not_bit23 {c : Word} (h : c.getLsbD 23 = false) : shift1 c = c <<< 1 := by
  rw [shift1_eq_xor, h, if_neg Bool.false_ne_true, BitVec.xor_zero]

/-- The test of R56, made on the shifted value, is of old bit 23. -/
theorem shifted_and_feedbackMask_ne_zero_iff (c : Word) :
    (c <<< 1) &&& 0x01000000#32 ≠ 0#32 ↔ c.getLsbD 23 = true := by
  rw [← feedback_shift, feedback, bne_iff_ne]
  rfl

/-- Settles O9, by the two values of old bit 23. -/
theorem shiftStepTestsTheShiftedValue : Obligations.ShiftStepTestsTheShiftedValue := by
  refine ⟨fun c => ⟨shifted_and_feedbackMask_ne_zero_iff c, fun h => ?_, fun h => ⟨?_, getLsbD_shift1_24 c⟩⟩,
    by decide, by decide, by decide, by decide⟩
  · refine shift1_of_not_bit23 (Bool.eq_false_of_not_eq_true fun hbit => ?_)
    exact (shifted_and_feedbackMask_ne_zero_iff c).2 hbit h
  · exact shift1_of_bit23 ((shifted_and_feedbackMask_ne_zero_iff c).1 h)

theorem shift1_zero : shift1 0#32 = 0#32 := by decide

/-- The step is linear over GF(2): the shift is, and so is the choice of the polynomial by old bit 23 (R57). -/
theorem shift1_xor (a b : Word) : shift1 (a ^^^ b) = shift1 a ^^^ shift1 b := by
  apply BitVec.eq_of_getLsbD_eq
  intro k _
  simp only [BitVec.getLsbD_xor, getLsbD_shift1, Bool.and_xor_distrib_left, Bool.and_xor_distrib_right, Bool.xor_assoc,
    Bool.xor_left_comm]

/-- A bit that the step may feed back into, by whether the polynomial has a tap there (R57). -/
theorem getLsbD_shift1_of_tap {k : Nat} {tap : Bool} (hk : 1 ≤ k ∧ k < 32 ∧ Config.polynomial.getLsbD k = tap)
    (c : Word) : (shift1 c).getLsbD k = (c.getLsbD (k - 1) ^^ (c.getLsbD 23 && tap)) := by
  obtain ⟨hpos, hlt, htap⟩ := hk
  rw [getLsbD_shift1, htap]
  simp [hlt, show k ≠ 0 by omega]

/-- The positions where `POLY24` has a 1: at or above its width there is none (R57). -/
theorem getLsbD_poly24_iff (k : Nat) :
    (0x864CFB#24).getLsbD k = true ↔ k ∈ [23, 18, 17, 14, 11, 10, 7, 6, 5, 4, 3, 1, 0] := by
  by_cases hk : k < 24
  · have hbits : ∀ j : Fin 24, (0x864CFB#24).getLsbD j = true ↔
        (j : Nat) ∈ [23, 18, 17, 14, 11, 10, 7, 6, 5, 4, 3, 1, 0] := by decide
    exact hbits ⟨k, hk⟩
  · have hlist : ∀ j ∈ [23, 18, 17, 14, 11, 10, 7, 6, 5, 4, 3, 1, 0], j < 24 := by decide
    rw [BitVec.getLsbD_of_ge _ _ (Nat.le_of_not_lt hk)]
    exact ⟨nofun, fun hmem => absurd (hlist k hmem) hk⟩

/-- Settles O10: each bit is the one below it, with old bit 23 XORed in where the polynomial has a 1. -/
theorem shiftStepFollowsTheTaps : Obligations.ShiftStepFollowsTheTaps := by
  have htaps : ∀ k ∈ [1, 3, 4, 5, 6, 7, 10, 11, 14, 17, 18, 23],
      1 ≤ k ∧ k < 32 ∧ Config.polynomial.getLsbD k = true := by decide
  have hothers : ∀ k ∈ [2, 8, 9, 12, 13, 15, 16, 19, 20, 21, 22],
      1 ≤ k ∧ k < 32 ∧ Config.polynomial.getLsbD k = false := by decide
  have hbit0 : Config.polynomial.getLsbD 0 = true := by decide
  refine ⟨fun c => ⟨?_, fun k hk => ?_, fun k hk => ?_, getLsbD_shift1_24 c, fun k hlow hhigh => ?_⟩,
    getLsbD_poly24_iff, shift1_xor, shift1_zero⟩
  · rw [getLsbD_shift1, hbit0]
    simp
  · rw [getLsbD_shift1_of_tap (htaps k hk), Bool.and_true]
  · rw [getLsbD_shift1_of_tap (hothers k hk), Bool.and_false, Bool.xor_false]
  · obtain ⟨j, rfl⟩ := Nat.exists_eq_add_of_le hlow
    rw [getLsbD_shift1_of_ge_25, show 25 + j - 1 = 24 + j by omega]
    simp [show 25 + j < 32 by omega]

/-! ### The transition for one byte (R58, R60) -/

theorem shift1_iterate_xor (n : Nat) (a b : Word) : shift1^[n] (a ^^^ b) = shift1^[n] a ^^^ shift1^[n] b :=
  Function.Semiconj₂.iterate shift1_xor n a b

theorem shift1_iterate_zero (n : Nat) : shift1^[n] 0#32 = 0#32 := Function.iterate_fixed shift1_zero n

/-- Settles O11: the XOR of a byte is linear, and so is each of the eight steps. -/
theorem byteStepIsLinear : Obligations.ByteStepIsLinear := by
  intro a b u v
  simp only [byteStep_eq_iterate, xorIn_xor, shift1_iterate_xor]

/-- With bits 31 to 24 zero the low 24 bits are the whole word. -/
theorem eq_of_setWidth_eq_of_upperBitsZero {c c' : Word} (hc : upperBitsZero c = true)
    (hc' : upperBitsZero c' = true) (h : c.setWidth 24 = c'.setWidth 24) : c = c' := by
  apply BitVec.eq_of_getLsbD_eq
  intro k hk
  by_cases hlow : k < 24
  · have hbit := congrArg (fun b => b.getLsbD k) h
    simpa [hlow] using hbit
  · obtain ⟨j, rfl⟩ := Nat.exists_eq_add_of_le (Nat.le_of_not_lt hlow)
    rw [(upperBitsZero_iff c).1 hc j (by omega), (upperBitsZero_iff c').1 hc' j (by omega)]

/-- Bits 31 to 24 of the old register have no influence (R60). -/
theorem byteStep_congr {c c' : Word} (h : c.setWidth 24 = c'.setWidth 24) (v : Byte) :
    byteStep c v = byteStep c' v :=
  eq_of_setWidth_eq_of_upperBitsZero (upperBitsZero_byteStep c v) (upperBitsZero_byteStep c' v)
    (by rw [setWidth_byteStep, setWidth_byteStep, h])

/-- While nothing arrives at bit 23, the steps only shift. -/
theorem shift1_iterate_of_top_clear {n : Nat} (hn : n ≤ 24) {c : Word} (h : ∀ j < n, c.getLsbD (23 - j) = false) :
    shift1^[n] c = c <<< n := by
  induction n with
  | zero => exact (BitVec.shiftLeft_zero c).symm
  | succ n ih =>
    have hbit : (c <<< n).getLsbD 23 = false := by
      rw [BitVec.getLsbD_shiftLeft, h n (by omega), Bool.and_false]
    rw [Function.iterate_succ_apply', ih (by omega) fun j hj => h j (by omega), shift1_of_not_bit23 hbit,
      BitVec.shiftLeft_add]

/-- The low 24 bits of the register: its low 16 with its own bits 23 to 16 XORed in above them. -/
theorem setWidth_xorIn_own_byte (c : Word) :
    (xorIn ((c.setWidth 16).setWidth 32) (c.extractLsb' 16 8)).setWidth 24 = c.setWidth 24 := by
  apply BitVec.eq_of_getLsbD_eq
  intro k hk
  have hlt : k < 32 := by omega
  simp only [BitVec.getLsbD_setWidth, getLsbD_xorIn, BitVec.getLsbD_extractLsb', hk, hlt]
  by_cases hlow : k < 16
  · simp [hlow]
  · simp [hlow, show k - 16 < 8 by omega, show 16 + (k - 16) = k by omega]

/-- The transition taken apart: the low 16 bits move up by eight, and what is fed back depends on the byte and on
bits 23 to 16 alone, through their XOR. -/
theorem byteStep_eq_shift_xor (c : Word) (v : Byte) :
    byteStep c v = (c.setWidth 16).setWidth 32 <<< 8 ^^^ shift1^[8] (operandWord (c.extractLsb' 16 8 ^^^ v)) := by
  have htop : ∀ j < 8, ((c.setWidth 16).setWidth 32).getLsbD (23 - j) = false := fun j hj => by
    simp [show ¬ 23 - j < 16 by omega]
  calc byteStep c v = byteStep (xorIn ((c.setWidth 16).setWidth 32) (c.extractLsb' 16 8)) v :=
        byteStep_congr (setWidth_xorIn_own_byte c).symm v
    _ = shift1^[8] (xorIn ((c.setWidth 16).setWidth 32) (c.extractLsb' 16 8 ^^^ v)) := by
        rw [byteStep_eq_iterate, xorIn_xorIn]
    _ = _ := by rw [xorIn, shift1_iterate_xor, shift1_iterate_of_top_clear (by decide) htop]

/-- Writing the register's own bits 23 to 16 feeds nothing back (R60). -/
theorem byteStep_own_byte (c : Word) : byteStep c (c.extractLsb' 16 8) = (c.setWidth 16).setWidth 32 <<< 8 := by
  rw [byteStep_eq_shift_xor, BitVec.xor_self, operandWord_zero, shift1_iterate_zero, BitVec.xor_zero]

/-! ### The table (R69) -/

/-- `SHIFT1^8(i << 16) & 0x00FFFFFF`, the entry `i` by its definition (R69). -/
def feedbackOf (i : Byte) : Sum24 := maskedSum (shift1^[8] (operandWord i))

/-- The one evaluation that the table needs: the listed entries are those of the definition, in their order. -/
theorem crcTable_eq_map : crcTable = (List.finRange 256).map (fun i => feedbackOf (BitVec.ofFin i)) := by
  decide +kernel

theorem tableEntry_eq_feedbackOf (i : Byte) : tableEntry i = feedbackOf i := by
  simp [tableEntry, crcTable_eq_map, List.getD_eq_getElem?_getD, i.isLt]

/-- What an entry feeds back is all of the eight steps: they leave bits 31 to 24 zero. -/
theorem setWidth_feedbackOf (i : Byte) : (feedbackOf i).setWidth 32 = shift1^[8] (operandWord i) := by
  have hupper : upperBitsZero ((feedbackOf i).setWidth 32) = true := by
    simp [upperBitsZero_iff]
  have hlow : ((feedbackOf i).setWidth 32).setWidth 24 = (shift1^[8] (operandWord i)).setWidth 24 := by
    rw [BitVec.setWidth_setWidth_of_le _ (by decide), BitVec.setWidth_eq, feedbackOf, maskedSum_eq_setWidth]
  exact eq_of_setWidth_eq_of_upperBitsZero hupper
    ((upperBitsZero_iff _).2 fun j hj => getLsbD_shift1_iterate 8 _ j hj) hlow

/-- The table's own formula for the low 16 bits. -/
theorem shiftLeft_and_sumMask (c : Word) : (c <<< 8) &&& Config.sumMask = (c.setWidth 16).setWidth 32 <<< 8 := by
  have hmask : ∀ j : Fin 32, Config.sumMask.getLsbD j = decide ((j : Nat) < 24) := by decide
  apply BitVec.eq_of_getLsbD_eq
  intro k hk
  have hbit : Config.sumMask.getLsbD k = decide (k < 24) := hmask ⟨k, hk⟩
  by_cases hlow : k < 8
  · simp [hlow]
  · by_cases hmid : k < 24
    · simp [hbit, hk, hlow, hmid, show k - 8 < 16 by omega, show k - 8 < 32 by omega]
    · simp [hbit, hmid, show ¬ k - 8 < 16 by omega]

/-- The lookup formula is the transition, for every register value. -/
theorem byteStepByTable_eq_byteStep (c : Word) (v : Byte) : byteStepByTable c v = byteStep c v := by
  have hindex : (c >>> 16).setWidth 8 = c.extractLsb' 16 8 := by
    apply BitVec.eq_of_getLsbD_eq
    intro k hk
    simp [hk]
  rw [byteStepByTable, shiftLeft_and_sumMask, hindex, tableEntry_eq_feedbackOf, setWidth_feedbackOf,
    byteStep_eq_shift_xor]

/-- Settles O12: the entries by evaluation, and the lookup by taking the transition apart. -/
theorem tableLookupEqualsBitLoop : Obligations.TableLookupEqualsBitLoop :=
  ⟨tableEntry_eq_feedbackOf, fun c v _ => byteStepByTable_eq_byteStep c v⟩

/-! ### The commands (R59 to R62) -/

theorem exec_write_of_ready {s : State} (h : s.phase = .afterReset) (v : Byte) :
    exec (.write v) s = .next (s.setCrc (byteStep s.crc v)) :=
  onceReset_of_ready h

theorem exec_sum_of_ready {s : State} (h : s.phase = .afterReset) :
    exec .sum s = .next (s.deliver (maskedSum s.crc)) :=
  onceReset_of_ready h

/-- Settles O13: RESET is one assignment, and the reset state has its value already. -/
theorem resetSetsInitial : Obligations.ResetSetsInitial :=
  ⟨by decide, fun s => exec_reset s, exec_reset State.reset⟩

/-- Settles O16, by the meaning of NOP. -/
theorem nopChangesNothing : Obligations.NopChangesNothing :=
  ⟨by decide, exec_nop⟩

/-- Settles O15: the mask leaves bits 23 to 0, and delivering writes no register. -/
theorem sumReturnsTheLowBits : Obligations.SumReturnsTheLowBits := by
  refine ⟨by decide, fun s h => ?_, by decide, by decide⟩
  rw [exec_sum_of_ready h, maskedSum_eq_setWidth, BitVec.setWidth_eq_extractLsb' (by decide)]
  rfl

/-- A zero sum stays zero under the zero byte (R60). -/
theorem byteStep_zero_of_low_zero {c : Word} (h : c.setWidth 24 = 0#24) : byteStep c 0x00#8 = 0#32 :=
  calc byteStep c 0x00#8 = byteStep 0#32 0x00#8 := byteStep_congr h 0x00#8
    _ = 0#32 := by decide

/-- Settles O14: the general clauses are facts about the transition, the corner cases are evaluated. -/
theorem writeAppliesTheTransition : Obligations.WriteAppliesTheTransition := by
  have htwice : byteStep (byteStep 0x00B704CE#32 0x00#8) 0x00#8 ≠ byteStep 0x00B704CE#32 0x00#8 := by
    decide +kernel
  have hzero : writeAll 0x00B704CE#32 [0xB7#8, 0x04#8, 0xCE#8] = 0#32 := by decide +kernel
  exact ⟨encode_write, fun v s h => exec_write_of_ready h v, by decide, fun c => byteStep_zero_of_low_zero, hzero,
    byteStep_own_byte, ⟨_, _, htwice⟩, fun c v => beq_iff_eq.1 (upperBitsZero_byteStep c v),
    fun c c' v h => byteStep_congr h v, by decide⟩

/-- Settles O38, by evaluating the five messages. -/
theorem knownChecksums : Obligations.KnownChecksums := by
  refine ⟨?_, ?_, ?_, ?_, ?_⟩ <;> decide +kernel

/-! ### Runs over given edges -/

theorem step_of_cons {s : State} {e : Edge} {rest : List Edge} (hup : s.upcoming = e :: rest) :
    step s = executeEdge e s.advance := by
  rw [step_eq_executeEdge, State.presented_of_cons hup]

/-- A command's canonical edge executes the command. -/
theorem step_of_ofInstr_cons {s : State} {i : Instr} {rest : List Edge} (hup : s.upcoming = Edge.ofInstr i :: rest) :
    step s = exec i s.advance := by
  rw [step_of_cons hup, executeEdge_of_command rfl, Edge.ofInstr, decode_encode]

theorem upcoming_of_step_cons {s t : State} {e : Edge} {rest : List Edge} (hup : s.upcoming = e :: rest)
    (h : step s = .next t) : t.upcoming = rest := by
  rw [(step_host_side h).1, hup, List.tail_cons]

/-- The edges consumed by a run are as many as its steps. -/
theorem upcoming_of_runFor {k : Nat} {s t : State} (h : runFor k s = .next t) : t.upcoming = s.upcoming.drop k := by
  induction k generalizing s with
  | zero => rw [← Host.Outcome.next.inj h, List.drop_zero]
  | succ k ih =>
    obtain ⟨u, hu, hrun⟩ := runFor_succ_next h
    rw [ih hrun, (step_host_side hu).1, List.drop_tail]

/-- A run goes on from where a first part of it ended. -/
theorem runFor_add_of_next {m : Nat} {s t : State} (h : runFor m s = .next t) (n : Nat) :
    runFor (m + n) s = runFor n t := by
  induction m generalizing s with
  | zero => rw [Nat.zero_add, Host.Outcome.next.inj h]
  | succ m ih =>
    obtain ⟨u, hu, hrun⟩ := runFor_succ_next h
    rw [Nat.succ_add, runFor_succ_of_next hu, ih hrun]

theorem runFor_one_of_next {s t : State} (h : step s = .next t) : runFor 1 s = .next t := by
  rw [runFor_succ_of_next h 0, runFor_zero]

/-- Settles O30: RESET completes in every state and makes SUM's meaning and value known. -/
theorem resetThenSumReturnsInitial : Obligations.ResetThenSumReturnsInitial := by
  intro s e e' rest hup hr hi hr' hi'
  have hreset : step s = .next s.advance.initialise := by
    rw [step_of_cons hup, executeEdge_of_command hr, hi, exec_reset]
  have hsum : step s.advance.initialise = .next (s.advance.initialise.advance.deliver 0xB704CE#24) := by
    rw [step_of_cons (upcoming_of_step_cons hup hreset), executeEdge_of_command hr', hi', exec_sum_of_ready rfl,
      State.advance_crc, State.initialise_crc, maskedSum_initial]
  rw [runFor_succ_of_next hreset, runFor_one_of_next hsum]
  rfl

/-! ### Whole messages (R63, R64, R75) -/

theorem writeAll_append (c : Word) (b1 b2 : List Byte) : writeAll c (b1 ++ b2) = writeAll (writeAll c b1) b2 :=
  List.foldl_append

/-- The edges of one `write` call apply the transition once for each byte, and change nothing else. -/
theorem runFor_write_edges (bytes : List Byte) {s : State} {rest : List Edge} (hready : s.phase = .afterReset)
    (hup : s.upcoming = (Call.write bytes).edges ++ rest) :
    runFor bytes.length s =
      .next { s with crc := writeAll s.crc bytes, index := s.index + bytes.length } := by
  induction bytes generalizing s with
  | nil => rfl
  | cons v bytes ih =>
    have hadvance : s.advance.phase = .afterReset := hready
    have hstep : step s = .next (s.advance.setCrc (byteStep s.crc v)) :=
      (step_of_ofInstr_cons hup).trans (exec_write_of_ready hadvance v)
    have hrest := ih (s := s.advance.setCrc (byteStep s.crc v)) hadvance (upcoming_of_step_cons hup hstep)
    rw [List.length_cons, runFor_succ_of_next hstep, hrest]
    simp [State.advance, State.setCrc, Nat.add_assoc, Nat.add_comm 1]

/-- The edges of `CRC24 B` are RESET's, those of one `write` call, and SUM's. -/
theorem crc24_edges (bytes : List Byte) :
    (Pseudo.crc24 bytes).expand.map Edge.ofInstr =
      Edge.ofInstr .reset :: ((Call.write bytes).edges ++ [Edge.ofInstr .sum]) := by
  simp [Pseudo.expand, Call.edges, Function.comp_def]

/-- A whole message from any state: RESET, the bytes, SUM. -/
theorem runFor_crc24 (bytes : List Byte) {s : State} {rest : List Edge}
    (hup : s.upcoming = (Pseudo.crc24 bytes).expand.map Edge.ofInstr ++ rest) :
    runFor (bytes.length + 2) s = .next { s with
      crc := writeAll Config.initial bytes, phase := .afterReset, index := s.index + (bytes.length + 2),
      returned := s.returned ++ [checksum bytes] } := by
  rw [crc24_edges, List.cons_append, List.append_assoc] at hup
  have hreset : step s = .next s.advance.initialise := by rw [step_of_ofInstr_cons hup, exec_reset]
  have hup' := upcoming_of_step_cons hup hreset
  have hwrites := runFor_write_edges bytes rfl hup'
  have hlast := upcoming_of_runFor hwrites
  rw [hup', List.drop_left' (by rw [Call.edges, List.length_map])] at hlast
  have hsum := (step_of_ofInstr_cons hlast).trans (exec_sum_of_ready rfl)
  rw [runFor_succ_of_next hreset, runFor_add_of_next hwrites, runFor_one_of_next hsum]
  simp [State.advance, State.deliver, State.initialise, checksum, Nat.add_assoc, Nat.add_comm 1]

/-- Settles O34: the equations are those of a fold, and the run goes through its three parts. -/
theorem wholeMessageChecksum : Obligations.WholeMessageChecksum :=
  ⟨writeAll_nil, writeAll_snoc, fun _ => rfl, fun _ bytes _ hup => runFor_crc24 bytes hup⟩

/-- Writing a register's own low 24 bits, most significant byte first: each write moves the next byte up and feeds
nothing back, until nothing is left (R75). -/
theorem writeAll_own_bytes (c : Word) :
    writeAll c [c.extractLsb' 16 8, c.extractLsb' 8 8, c.extractLsb' 0 8] = 0#32 := by
  have hsecond : ((c.setWidth 16).setWidth 32 <<< 8).extractLsb' 16 8 = c.extractLsb' 8 8 := by
    apply BitVec.eq_of_toNat_eq
    simp only [BitVec.extractLsb'_toNat, BitVec.toNat_shiftLeft, BitVec.toNat_setWidth, Nat.shiftLeft_eq,
      Nat.shiftRight_eq_div_pow]
    omega
  have hthird : byteStep ((c.setWidth 16).setWidth 32 <<< 8) (c.extractLsb' 8 8) = operandWord (c.extractLsb' 0 8) := by
    rw [← hsecond, byteStep_own_byte]
    apply BitVec.eq_of_toNat_eq
    simp only [operandWord, Config.byteShift, BitVec.extractLsb'_toNat, BitVec.toNat_shiftLeft, BitVec.toNat_setWidth,
      Nat.shiftLeft_eq, Nat.shiftRight_eq_div_pow]
    omega
  have hlast : byteStep (operandWord (c.extractLsb' 0 8)) (c.extractLsb' 0 8) = 0#32 := by
    rw [byteStep_eq_iterate, xorIn, BitVec.xor_self, shift1_iterate_zero]
  rw [writeAll_cons, byteStep_own_byte, writeAll_cons, hthird, writeAll_cons, hlast, writeAll_nil]

theorem sumBytes_maskedSum (c : Word) :
    sumBytes (maskedSum c) = [c.extractLsb' 16 8, c.extractLsb' 8 8, c.extractLsb' 0 8] := by
  rw [maskedSum_eq_setWidth, sumBytes, BitVec.extractLsb'_setWidth_of_le (by decide),
    BitVec.extractLsb'_setWidth_of_le (by decide), BitVec.extractLsb'_setWidth_of_le (by decide)]

/-- Settles O39: after a message the sum's bytes are the register's own. -/
theorem appendingTheSumGivesZero : Obligations.AppendingTheSumGivesZero := by
  refine ⟨fun s rest hready _ hup => ?_, fun bytes => ?_⟩
  · have hrun := runFor_write_edges _ hready hup
    rwa [writeAll_own_bytes] at hrun
  · have hzero : maskedSum 0#32 = 0#24 := by decide
    rw [checksum, writeAll_append, checksum, sumBytes_maskedSum, writeAll_own_bytes, hzero]

/-- Several `write` calls, empty ones included, stand for the edges of one call with all their bytes (R64). -/
theorem flatMap_write_edges (chunks : List (List Byte)) :
    chunks.flatMap (fun b => (Call.write b).edges) = (Call.write chunks.flatten).edges := by
  rw [Call.edges, List.map_flatten, List.flatMap_def]
  rfl

/-- One edge that is no reset keeps the register at the bytes written since a start with any content `c`. -/
theorem executeEdge_of_resetFree {e : Edge} (he : e.rst = false ∧ decode e.cmd ≠ .reset) {s : State} {c : Word}
    {sofar : List Byte} (hready : s.phase = .afterReset) (hcrc : s.crc = writeAll c sofar) :
    ∃ t, executeEdge e s = .next t ∧ t.phase = .afterReset ∧ t.crc = writeAll c (bytesSinceReset sofar [e]) := by
  obtain ⟨hr, hi⟩ := he
  rw [executeEdge_of_command hr]
  cases hd : decode e.cmd with
  | reset => exact absurd hd hi
  | nop => exact ⟨s, exec_nop s, hready, by simp [bytesSinceReset, hr, hd, hcrc]⟩
  | write v =>
    exact ⟨_, exec_write_of_ready hready v, hready, by simp [bytesSinceReset, hr, hd, hcrc, writeAll_snoc]⟩
  | sum => exact ⟨_, exec_sum_of_ready hready, hready, by simp [bytesSinceReset, hr, hd, hcrc]⟩

/-- Over reset-free edges the register ends at the bytes written, whatever reads and idle cycles stand between. -/
theorem runFor_of_resetFree (p : List Edge) {s : State} {c : Word} {sofar : List Byte} {rest : List Edge}
    (hp : ∀ e ∈ p, e.rst = false ∧ decode e.cmd ≠ .reset) (hready : s.phase = .afterReset)
    (hcrc : s.crc = writeAll c sofar) (hup : s.upcoming = p ++ rest) :
    ∃ t, runFor p.length s = .next t ∧ t.phase = .afterReset ∧ t.crc = writeAll c (bytesSinceReset sofar p) := by
  induction p generalizing s sofar with
  | nil => exact ⟨s, rfl, hready, hcrc⟩
  | cons e p ih =>
    obtain ⟨he, hp⟩ := List.forall_mem_cons.1 hp
    have hadvance : s.advance.phase = .afterReset := hready
    obtain ⟨u, hedge, hu, hucrc⟩ := executeEdge_of_resetFree he hadvance hcrc
    have hstep : step s = .next u := (step_of_cons hup).trans hedge
    obtain ⟨t, hrun, ht, htcrc⟩ := ih hp hu hucrc (upcoming_of_step_cons hup hstep)
    exact ⟨t, (runFor_succ_of_next hstep p.length).trans hrun, ht, by rw [htcrc, bytesSinceReset_cons sofar e p]⟩

/-- Settles O35: `G` is a fold, calls are concatenated edges, and reset-free edges end at their bytes' register. -/
theorem chunkingDoesNotMatter : Obligations.ChunkingDoesNotMatter := by
  refine ⟨writeAll_append, fun s chunks => by rw [flatMap_write_edges], fun s p q hready hpq hbytes => ?_⟩
  obtain ⟨hp, hq⟩ := List.forall_mem_append.1 hpq
  obtain ⟨t, hrun, ht, htcrc⟩ := runFor_of_resetFree (s := s.load p) p hp hready (writeAll_nil _).symm
    (List.append_nil p).symm
  obtain ⟨u, hrun', hu, hucrc⟩ := runFor_of_resetFree (s := s.load q) q hq hready (writeAll_nil _).symm
    (List.append_nil q).symm
  have hcrc : t.crc = u.crc := by rw [htcrc, hucrc, hbytes, State.load_crc, State.load_crc]
  exact ⟨t, u, hrun, hrun', hcrc, by rw [State.sumPort_of_ready t ht, State.sumPort_of_ready u hu, hcrc]⟩

/-! ### The same sum and the same edges (R65) -/

/-- Both engines have been reset and hold the same sum; all else may differ. -/
def SameSum (s s' : State) : Prop :=
  s.phase = .afterReset ∧ s'.phase = .afterReset ∧ maskedSum s.crc = maskedSum s'.crc

/-- The sum after a byte depends on the sum before it and the byte alone. -/
theorem maskedSum_byteStep_congr {c c' : Word} (h : maskedSum c = maskedSum c') (v : Byte) :
    maskedSum (byteStep c v) = maskedSum (byteStep c' v) := by
  rw [maskedSum_eq_setWidth, maskedSum_eq_setWidth] at h
  rw [byteStep_congr h]

/-- One edge, of any kind, keeps the two sums the same and returns the same values on both. -/
theorem executeEdge_sameSum (e : Edge) {s s' : State} (h : SameSum s s') :
    ∃ t t' vs, executeEdge e s = .next t ∧ executeEdge e s' = .next t' ∧ SameSum t t' ∧
      t.returned = s.returned ++ vs ∧ t'.returned = s'.returned ++ vs := by
  obtain ⟨hs, hs', hsum⟩ := h
  have hnone (r : List Sum24) : r = r ++ [] := (List.append_nil r).symm
  cases hr : e.rst with
  | true =>
    exact ⟨_, _, [], executeEdge_of_rst hr s, executeEdge_of_rst hr s', ⟨rfl, rfl, rfl⟩, hnone _, hnone _⟩
  | false =>
    rw [executeEdge_of_command hr, executeEdge_of_command hr]
    cases decode e.cmd with
    | nop => exact ⟨s, s', [], rfl, rfl, ⟨hs, hs', hsum⟩, hnone _, hnone _⟩
    | reset => exact ⟨_, _, [], exec_reset s, exec_reset s', ⟨rfl, rfl, rfl⟩, hnone _, hnone _⟩
    | write v =>
      exact ⟨_, _, [], exec_write_of_ready hs v, exec_write_of_ready hs' v,
        ⟨hs, hs', maskedSum_byteStep_congr hsum v⟩, hnone _, hnone _⟩
    | sum =>
      exact ⟨_, _, [maskedSum s.crc], exec_sum_of_ready hs, exec_sum_of_ready hs', ⟨hs, hs', hsum⟩, rfl,
        by rw [hsum]; rfl⟩

/-- Over any number of edges, the same on both, the two sums stay the same and the same values are returned. -/
theorem runFor_sameSum (k : Nat) {s s' : State} (h : SameSum s s') (hup : s.upcoming = s'.upcoming) :
    ∃ t t' vs, runFor k s = .next t ∧ runFor k s' = .next t' ∧ SameSum t t' ∧
      t.returned = s.returned ++ vs ∧ t'.returned = s'.returned ++ vs := by
  induction k generalizing s s' with
  | zero => exact ⟨s, s', [], rfl, rfl, h, (List.append_nil _).symm, (List.append_nil _).symm⟩
  | succ k ih =>
    have hpresented : s'.presented = s.presented := by rw [State.presented, State.presented, hup]
    have hadvance : SameSum s.advance s'.advance := h
    obtain ⟨u, u', vs, hu, hu', husum, hvs, hvs'⟩ := executeEdge_sameSum s.presented hadvance
    rw [← step_eq_executeEdge] at hu
    rw [← hpresented, ← step_eq_executeEdge] at hu'
    have hupcoming : u.upcoming = u'.upcoming := by rw [(step_host_side hu).1, (step_host_side hu').1, hup]
    obtain ⟨t, t', ws, ht, ht', htsum, hws, hws'⟩ := ih husum hupcoming
    refine ⟨t, t', vs ++ ws, (runFor_succ_of_next hu k).trans ht, (runFor_succ_of_next hu' k).trans ht', htsum,
      ?_, ?_⟩
    · rw [hws, hvs, List.append_assoc, State.advance_returned]
    · rw [hws', hvs', List.append_assoc, State.advance_returned]

/-- Settles O37, by induction on the edges with the same sum on both engines. -/
theorem sameInputSameResults : Obligations.SameInputSameResults := by
  intro s s' k hs hs' hsum hup
  obtain ⟨t, t', vs, hrun, hrun', ⟨ht, ht', htsum⟩, hvs, hvs'⟩ := runFor_sameSum k ⟨hs, hs', hsum⟩ hup
  refine ⟨t, t', vs, hrun, hrun', hvs, hvs', ?_⟩
  rw [State.sumPort_of_ready t ht, State.sumPort_of_ready t' ht', htsum]

/-! ### Leaving out the NOPs (R62) -/

/-- The engines stand alike and the host has received the same values; the edges to come may differ. -/
def SameEngine (s t : State) : Prop := s.crc = t.crc ∧ s.phase = t.phase ∧ s.returned = t.returned

/-- Both completed with the engines alike, or both were refused alike. -/
def SameOutcome (o o' : Host.Outcome State Fault Refusal) : Prop :=
  (∃ t t', o = .next t ∧ o' = .next t' ∧ SameEngine t t') ∨ ∃ r, o = .refused r ∧ o' = .refused r

theorem SameOutcome.next {t t' : State} (h : SameEngine t t') : SameOutcome (.next t) (.next t') :=
  .inl ⟨t, t', rfl, rfl, h⟩

theorem sameOutcome_onceReset {s s' t t' : State} (hs : SameEngine s s') (ht : SameEngine t t') :
    SameOutcome (onceReset s t) (onceReset s' t') := by
  obtain ⟨-, hphase, -⟩ := hs
  obtain ⟨h, he⟩ | ⟨h, he⟩ := onceReset_cases s t <;> rw [he]
  · exact .inr ⟨_, rfl, onceReset_of_unready (hphase ▸ h)⟩
  · rw [onceReset_of_ready (hphase ▸ h)]
    exact .next ht

/-- What an edge does to the engine, and whether it is refused, is decided by the engine alone. -/
theorem sameOutcome_executeEdge (e : Edge) {s s' : State} (h : SameEngine s s') :
    SameOutcome (executeEdge e s) (executeEdge e s') := by
  have ⟨hcrc, hphase, hreturned⟩ := h
  cases hr : e.rst with
  | true =>
    rw [executeEdge_of_rst hr, executeEdge_of_rst hr]
    exact .next ⟨rfl, rfl, hreturned⟩
  | false =>
    rw [executeEdge_of_command hr, executeEdge_of_command hr]
    cases decode e.cmd with
    | nop => exact .next h
    | reset => exact .next ⟨rfl, rfl, hreturned⟩
    | write v =>
      rw [exec_write, exec_write, hcrc]
      exact sameOutcome_onceReset h ⟨rfl, hphase, hreturned⟩
    | sum =>
      rw [exec_sum, exec_sum, hcrc]
      exact sameOutcome_onceReset h ⟨hcrc, hphase, by rw [State.deliver_returned, hreturned]; rfl⟩

/-- A NOP edge moves the host on and nothing else. -/
theorem step_of_isNop_cons {s : State} {e : Edge} {rest : List Edge} (he : e.isNop = true)
    (hup : s.upcoming = e :: rest) : step s = .next s.advance := by
  obtain ⟨hr, hi⟩ : e.rst = false ∧ decode e.cmd = .nop := by simpa [Edge.isNop] using he
  rw [step_of_cons hup, executeEdge_of_command hr, hi, exec_nop]

/-- The edges of a list that are no NOPs. -/
def withoutNops (p : List Edge) : List Edge := p.filter (fun e => !e.isNop)

/-- A list of edges and the list without its NOPs take engines that are alike to the same outcome. -/
theorem sameOutcome_runFor_withoutNops (p : List Edge) {s s' : State} (h : SameEngine s s') (hup : s.upcoming = p)
    (hup' : s'.upcoming = withoutNops p) :
    SameOutcome (runFor p.length s) (runFor (withoutNops p).length s') := by
  induction p generalizing s s' with
  | nil => exact .next h
  | cons e p ih =>
    by_cases he : e.isNop = true
    · have hskip : withoutNops (e :: p) = withoutNops p := by simp [withoutNops, he]
      have hadvance : SameEngine s.advance s' := h
      have hnop := step_of_isNop_cons he hup
      rw [hskip] at hup' ⊢
      rw [List.length_cons, runFor_succ_of_next hnop]
      exact ih hadvance (upcoming_of_step_cons hup hnop) hup'
    · have hkeep : withoutNops (e :: p) = e :: withoutNops p := by simp [withoutNops, he]
      have hadvance : SameEngine s.advance s'.advance := h
      have hedge := sameOutcome_executeEdge e hadvance
      rw [hkeep] at hup' ⊢
      rw [← step_of_cons hup, ← step_of_cons hup'] at hedge
      obtain ⟨t, t', ht, ht', hsame⟩ | ⟨r, hrefused, hrefused'⟩ := hedge
      · rw [List.length_cons, List.length_cons, runFor_succ_of_next ht, runFor_succ_of_next ht']
        exact ih hsame (upcoming_of_step_cons hup ht) (upcoming_of_step_cons hup' ht')
      · exact .inr ⟨r, runFor_succ_of_refused hrefused _, runFor_succ_of_refused hrefused' _⟩

/-- Settles O17, by induction on the edges: a NOP leaves the engine as it is, any other edge is taken by both. -/
theorem nopsAnywhereChangeNoResult : Obligations.NopsAnywhereChangeNoResult := by
  refine ⟨by decide, exec_nop, fun s p => ?_⟩
  have hsame : SameEngine (s.load p) (s.load (withoutNops p)) := ⟨rfl, rfl, rfl⟩
  have hrun := sameOutcome_runFor_withoutNops p hsame rfl rfl
  rw [withoutNops] at hrun
  obtain ⟨t, t', ht, ht', hengine⟩ | ⟨r, hr, hr'⟩ := hrun
  · rw [ht, ht']
    exact hengine
  · rw [hr, hr']

end Sys2Proof.Machine

/-! ## The host boundary family (`41_host_boundary.md`): the tool and the engine behind it -/

namespace Sys2Proof.Machine

/-! ### What the caller's edges write and ask for (R54, R76, R77) -/

theorem bytesSinceReset_write_cons (sofar : List Byte) (v : Byte) (rest : List Edge) :
    bytesSinceReset sofar (Edge.ofInstr (.write v) :: rest) = bytesSinceReset (sofar ++ [v]) rest := by
  simp [bytesSinceReset, Edge.ofInstr]

theorem owedSums_write_cons (sofar : List Byte) (v : Byte) (rest : List Edge) :
    owedSums sofar (Edge.ofInstr (.write v) :: rest) = owedSums (sofar ++ [v]) rest := by
  simp [owedSums, Edge.ofInstr]

/-- The edges of a `write` call add its bytes to those written since the last reset. -/
theorem bytesSinceReset_write_edges_append (bytes sofar : List Byte) (rest : List Edge) :
    bytesSinceReset sofar ((Call.write bytes).edges ++ rest) = bytesSinceReset (sofar ++ bytes) rest := by
  induction bytes generalizing sofar with
  | nil => rw [List.append_nil]; rfl
  | cons v bytes ih =>
    calc bytesSinceReset sofar (Edge.ofInstr (.write v) :: ((Call.write bytes).edges ++ rest))
        = bytesSinceReset (sofar ++ [v]) ((Call.write bytes).edges ++ rest) := bytesSinceReset_write_cons _ _ _
      _ = bytesSinceReset (sofar ++ v :: bytes) rest := by rw [ih, List.append_assoc, List.singleton_append]

/-- The edges of a `write` call ask for no sum; the sums asked for after them see its bytes. -/
theorem owedSums_write_edges_append (bytes sofar : List Byte) (rest : List Edge) :
    owedSums sofar ((Call.write bytes).edges ++ rest) = owedSums (sofar ++ bytes) rest := by
  induction bytes generalizing sofar with
  | nil => rw [List.append_nil]; rfl
  | cons v bytes ih =>
    calc owedSums sofar (Edge.ofInstr (.write v) :: ((Call.write bytes).edges ++ rest))
        = owedSums (sofar ++ [v]) ((Call.write bytes).edges ++ rest) := owedSums_write_cons _ _ _
      _ = owedSums (sofar ++ v :: bytes) rest := by rw [ih, List.append_assoc, List.singleton_append]

/-- The edges of the calls that end a reading: SUM once the input is exhausted, none after a failure. -/
def closingEdges (failed : Bool) : List Edge := if failed then [] else [Edge.ofInstr .sum]

/-- However the input is chunked, the caller's edges are a hardware reset, one WRITE per byte, and the closing ones. -/
theorem readingEdges_eq (r : Reading) :
    readingEdges r = Edge.withReset 0#10 :: ((Call.write r.chunks.flatten).edges ++ closingEdges r.failed) := by
  have hclosing : (if r.failed then [] else [Call.sum]).flatMap Call.edges = closingEdges r.failed := by
    cases r.failed <;> rfl
  rw [readingEdges, readingCalls, List.flatMap_cons, List.flatMap_append, List.flatMap_map, flatMap_write_edges,
    hclosing]
  rfl

/-- The caller writes the bytes it has read, and nothing else. -/
theorem bytesSinceReset_readingEdges (r : Reading) : bytesSinceReset [] (readingEdges r) = r.chunks.flatten := by
  have hclosing (sofar : List Byte) : bytesSinceReset sofar (closingEdges r.failed) = sofar := by
    cases r.failed <;> simp [closingEdges, bytesSinceReset, Edge.ofInstr]
  rw [readingEdges_eq]
  calc bytesSinceReset [] ((Call.write r.chunks.flatten).edges ++ closingEdges r.failed)
      = bytesSinceReset r.chunks.flatten (closingEdges r.failed) := bytesSinceReset_write_edges_append _ _ _
    _ = r.chunks.flatten := hclosing _

/-- The caller asks for one sum, that of all it has read, or for none after a read failure (R83). -/
theorem owedSums_readingEdges (r : Reading) :
    owedSums [] (readingEdges r) = if r.failed then [] else [checksum r.chunks.flatten] := by
  have hclosing (sofar : List Byte) :
      owedSums sofar (closingEdges r.failed) = if r.failed then [] else [checksum sofar] := by
    cases r.failed <;> simp [closingEdges, owedSums, Edge.ofInstr]
  rw [readingEdges_eq]
  calc owedSums [] ((Call.write r.chunks.flatten).edges ++ closingEdges r.failed)
      = owedSums r.chunks.flatten (closingEdges r.failed) := owedSums_write_edges_append _ _ _
    _ = if r.failed then [] else [checksum r.chunks.flatten] := hclosing _

/-! ### The engine and the report (R82, R83, R97) -/

/-- The engine completes the caller's edges, holds the bytes read, and has returned the sums asked for. -/
theorem toolEngine_completes (input : List ReadEvent) :
    ∃ s, toolEngine input = .next s ∧ s.HoldsMessage (readInput input).chunks.flatten ∧
      s.returned = if (readInput input).failed then [] else [checksum (readInput input).chunks.flatten] := by
  have hstart : (State.reset.load (readingEdges (readInput input))).HoldsMessage [] := ⟨rfl, rfl⟩
  obtain ⟨s, hrun, hs, hreturned⟩ := runFor_holdsMessage (readingEdges (readInput input)) hstart (List.append_nil _).symm
  rw [bytesSinceReset_readingEdges] at hs
  rw [owedSums_readingEdges] at hreturned
  exact ⟨s, hrun, hs, hreturned⟩

theorem runTool_of_help {flags : List Flag} (h : Flag.help ∈ flags) (input : List ReadEvent) :
    runTool flags input = some .usage :=
  if_pos h

/-- Without help the tool reports the failure of the reading, or else prints the checksum of the bytes read. -/
theorem runTool_of_not_help {flags : List Flag} (h : Flag.help ∉ flags) (input : List ReadEvent) :
    runTool flags input = some (if (readInput input).failed then .readFailed
      else .printed (renderLine flags (checksum (readInput input).chunks.flatten))) := by
  obtain ⟨s, hengine, -, hreturned⟩ := toolEngine_completes input
  rw [runTool, if_neg h, hengine]
  cases hfailed : (readInput input).failed with
  | true => rfl
  | false => simp [reportFrom, hreturned, hfailed]

/-- A failure anywhere in the input is met: reading goes on to the first one. -/
theorem readInput_failed_of_mem {input : List ReadEvent} (h : ReadEvent.failure ∈ input) :
    (readInput input).failed = true := by
  obtain ⟨before, rest, rfl⟩ := List.append_of_mem h
  induction before with
  | nil => rfl
  | cons event before ih =>
    cases event with
    | chunk bytes => exact ih (by simp)
    | failure => rfl

theorem runTool_of_failed {flags : List Flag} {input : List ReadEvent} (h : Flag.help ∉ flags)
    (hfailed : (readInput input).failed = true) : runTool flags input = some .readFailed := by
  rw [runTool_of_not_help h, hfailed]
  rfl

theorem runTool_chunks {flags : List Flag} (h : Flag.help ∉ flags) (chunks : List (List Byte)) :
    runTool flags (chunks.map ReadEvent.chunk) = some (.printed (renderLine flags (checksum chunks.flatten))) := by
  rw [runTool_of_not_help h, readInput_chunks]
  rfl

/-- Settles O42, one outcome of the tool at a time. -/
theorem toolPrintsTheChecksum : Obligations.ToolPrintsTheChecksum :=
  ⟨fun _ chunks h => runTool_chunks h chunks,
    fun _ _ h hfailure => ⟨runTool_of_failed h (readInput_failed_of_mem hfailure), rfl⟩,
    fun _ input h => ⟨runTool_of_help h input, rfl⟩, fun _ => rfl⟩

/-- Settles O44: reading stops at the failure, and the engine has run the edges of what was read before it. -/
theorem readFailureLeavesTheChecksumSoFar : Obligations.ReadFailureLeavesTheChecksumSoFar := by
  intro flags chunks rest h
  have hread := readInput_failure chunks rest
  obtain ⟨s, hengine, hs, hreturned⟩ := toolEngine_completes (chunks.map ReadEvent.chunk ++ .failure :: rest)
  rw [hread] at hs hreturned
  have ⟨_, hcrc⟩ := hs
  exact ⟨runTool_of_failed h (by rw [hread]), rfl, s, hengine, hcrc, hs.sumPort, hreturned⟩

/-- Settles O43: the tool prints the known checksum of "abc", and the two renderings of it are evaluated. -/
theorem endToEndAbc : Obligations.EndToEndAbc := by
  obtain ⟨-, -, habc, -, -⟩ := knownChecksums
  have hprint {flags : List Flag} (h : Flag.help ∉ flags) :
      runTool flags [.chunk [0x61#8, 0x62#8, 0x63#8]] = some (.printed (renderLine flags 0xBA1C7B#24)) := by
    rw [← habc]
    exact runTool_chunks h [[0x61#8, 0x62#8, 0x63#8]]
  refine ⟨(hprint (by decide)).trans ?_, (hprint (by decide)).trans ?_⟩ <;> decide

end Sys2Proof.Machine

/-! ## The exceptions family (`60_exceptions.md`): nothing faults, and refusals end with the first reset -/

namespace Sys2Proof.Machine

/-! ### Runs that complete, and the edges they take (R85) -/

/-- After the first reset every run completes, and the machine stays ready. -/
theorem runFor_of_ready (k : Nat) {s : State} (hs : s.phase = .afterReset) :
    ∃ t, runFor k s = .next t ∧ t.phase = .afterReset := by
  induction k generalizing s with
  | zero => exact ⟨s, runFor_zero s, hs⟩
  | succ k ih =>
    obtain ⟨u, hu, hready⟩ := step_of_ready hs
    rw [runFor_succ_of_next hu]
    exact ih hready

/-- Every edge of a completed run moves the host's index on by one (R17). -/
theorem index_of_runFor {k : Nat} {s t : State} (h : runFor k s = .next t) : t.index = s.index + k := by
  induction k generalizing s with
  | zero => rw [← Host.Outcome.next.inj h, Nat.add_zero]
  | succ k ih =>
    obtain ⟨u, hu, hrun⟩ := runFor_succ_next h
    obtain ⟨-, -, hindex⟩ := step_host_side hu
    rw [ih hrun, hindex, Nat.add_assoc, Nat.add_comm 1 k]

/-! ### What is refused (R85, R101) -/

/-- Before the first reset is the only time a command that needs one is refused. -/
theorem onceReset_refused {s t : State} {r : Refusal} (h : onceReset s t = .refused r) :
    r = .beforeFirstReset ∧ s.phase = .beforeReset := by
  obtain ⟨hs, he⟩ | ⟨-, he⟩ := onceReset_cases s t <;> rw [he] at h
  · exact ⟨(Host.Outcome.refused.inj h).symm, hs⟩
  · cases h

/-- Only WRITE and SUM are ever refused. -/
theorem exec_refused {i : Instr} {s : State} {r : Refusal} (h : exec i s = .refused r) :
    r = .beforeFirstReset ∧ s.phase = .beforeReset ∧ (i = .sum ∨ ∃ v, i = .write v) := by
  cases i with
  | nop => cases h
  | reset => cases h
  | write v =>
    obtain ⟨hr, hs⟩ := onceReset_refused h
    exact ⟨hr, hs, .inr ⟨v, rfl⟩⟩
  | sum =>
    obtain ⟨hr, hs⟩ := onceReset_refused h
    exact ⟨hr, hs, .inl rfl⟩

/-- A refused step is a refused command: the hardware reset is never refused. -/
theorem step_refused {s : State} {r : Refusal} (h : step s = .refused r) :
    s.presented.rst = false ∧ exec (decode s.presented.cmd) s.advance = .refused r := by
  rw [step_eq_executeEdge] at h
  cases hr : s.presented.rst with
  | true =>
    rw [executeEdge_of_rst hr] at h
    cases h
  | false => exact ⟨rfl, by rwa [executeEdge_of_command hr] at h⟩

/-- Settles O25: readiness is kept along the run, there is no fault to end in, and a refusal comes from one command. -/
theorem readyMachineNeverStops : Obligations.ReadyMachineNeverStops := by
  refine ⟨fun s k hs => ?_, step_ne_fault, fun s r h => ?_⟩
  · obtain ⟨t, ht, hready⟩ := runFor_of_ready k hs
    exact ⟨t, ht, hready, index_of_runFor ht⟩
  · obtain ⟨hrst, hexec⟩ := step_refused h
    obtain ⟨hr, hphase, hcommand⟩ := exec_refused hexec
    exact ⟨hr, hphase, hrst, hcommand⟩

end Sys2Proof.Machine

/-! ## The reset and hazards family (`70_reset_and_hazards.md`): the period before the first reset, `rst`, the port -/

namespace Sys2Proof.Machine

/-! ### Before the first reset (R101) -/

/-- Settles O18: WRITE and SUM ask for a reset, RESET and `rst` are one, and NOP reads nothing. -/
theorem beforeTheFirstReset : Obligations.BeforeTheFirstReset := by
  intro s hs
  exact ⟨fun v => onceReset_of_unready hs, onceReset_of_unready hs, State.sumPort_of_unready s hs, exec_reset s,
    hardwareReset_eq s, exec_nop s⟩

/-- From `s` the run does not reveal what the register held at power-on: the same refusal for every content, the same
state after a reset, or a state that differs in that content alone (U2). -/
def HidesContent (run : State → Host.Outcome State Fault Refusal) (s : State) : Prop :=
  (∃ r, ∀ c, run (powerOn c s) = .refused r) ∨
    (∃ t, t.phase = .afterReset ∧ ∀ c, run (powerOn c s) = .next t) ∨
    ∃ u, ∀ c, run (powerOn c s) = .next (powerOn c u)

/-- A command that needs a reset is refused whatever the register holds. -/
theorem onceReset_powerOn (c : Word) (s t : State) : onceReset (powerOn c s) t = .refused .beforeFirstReset :=
  onceReset_of_unready (powerOn_phase c s)

/-- Each kind of edge hides the content: resets overwrite it (R66, R98), NOP leaves it, WRITE and SUM are refused. -/
theorem executeEdge_hidesContent (e : Edge) (s : State) : HidesContent (executeEdge e) s := by
  cases hr : e.rst with
  | true => exact .inr (.inl ⟨s.initialise, rfl, fun c => executeEdge_of_rst hr (powerOn c s)⟩)
  | false =>
    simp only [HidesContent, executeEdge_of_command hr]
    cases decode e.cmd with
    | nop => exact .inr (.inr ⟨s, fun c => exec_nop (powerOn c s)⟩)
    | reset => exact .inr (.inl ⟨s.initialise, rfl, fun c => exec_reset (powerOn c s)⟩)
    | write v => exact .inl ⟨.beforeFirstReset, fun c => (exec_write v _).trans (onceReset_powerOn c s _)⟩
    | sum => exact .inl ⟨.beforeFirstReset, fun c => (exec_sum _).trans (onceReset_powerOn c s _)⟩

/-- The host presents the same edge whatever the register holds, so a step hides the content as its edge does. -/
theorem step_hidesContent (s : State) : HidesContent step s :=
  executeEdge_hidesContent s.presented s.advance

/-- A run of any length hides the content: after a reset it goes on from one state for every content. -/
theorem runFor_hidesContent (k : Nat) (s : State) : HidesContent (runFor k) s := by
  induction k generalizing s with
  | zero => exact .inr (.inr ⟨s, fun c => runFor_zero (powerOn c s)⟩)
  | succ k ih =>
    obtain ⟨r, hr⟩ | ⟨t, hready, ht⟩ | ⟨u, hu⟩ := step_hidesContent s
    · exact .inl ⟨r, fun c => runFor_succ_of_refused (hr c) k⟩
    · obtain ⟨t', hrun, hready'⟩ := runFor_of_ready k hready
      exact .inr (.inl ⟨t', hready', fun c => (runFor_succ_of_next (ht c) k).trans hrun⟩)
    · have hnext (c : Word) : runFor (k + 1) (powerOn c s) = runFor k (powerOn c u) := runFor_succ_of_next (hu c) k
      simp only [HidesContent, hnext]
      exact ih u

/-- Settles O31: the three ways in which a run hides the content are the three that the statement allows. -/
theorem powerOnContentIsNeverObserved : Obligations.PowerOnContentIsNeverObserved := by
  intro s c c' k
  obtain ⟨r, hr⟩ | ⟨t, hready, ht⟩ | ⟨u, hu⟩ := runFor_hidesContent k s
  · rw [hr c, hr c']
  · rw [ht c, ht c']
    exact .inl ⟨hready, rfl⟩
  · rw [hu c, hu c']
    exact .inr ⟨u, rfl, rfl⟩

/-! ### The hardware reset (R87, R99) -/

theorem step_of_rst_cons {s : State} {e : Edge} {rest : List Edge} (he : e.rst = true) (hup : s.upcoming = e :: rest) :
    step s = .next s.advance.initialise := by
  rw [step_of_cons hup, executeEdge_of_rst he]

/-- One or more edges with `rst` = 1, whatever their words: the first makes RESET's assignment, the others repeat it. -/
theorem runFor_of_rst (p : List Edge) {s : State} {e : Edge} {rest : List Edge} (hrst : ∀ d ∈ e :: p, d.rst = true)
    (hup : s.upcoming = e :: (p ++ rest)) :
    runFor (p.length + 1) s = .next { s.initialise with index := s.index + (p.length + 1) } := by
  induction p generalizing s e with
  | nil => exact runFor_one_of_next (step_of_rst_cons (hrst e List.mem_cons_self) hup)
  | cons d p ih =>
    obtain ⟨he, hrst⟩ := List.forall_mem_cons.1 hrst
    have hstep := step_of_rst_cons he hup
    rw [List.length_cons, runFor_succ_of_next hstep, ih hrst (upcoming_of_step_cons hup hstep)]
    simp [State.advance, State.initialise, Nat.add_assoc, Nat.add_comm 1]

/-- Settles O21: an edge with `rst` = 1 is RESET's assignment, and holding `rst` high is a case of several of them. -/
theorem hardwareResetWins : Obligations.HardwareResetWins := by
  refine ⟨fun w s => ⟨executeEdge_of_rst rfl s, executeEdge_of_rst rfl s⟩, fun s k w rest hup => ?_⟩
  have hrst : ∀ d ∈ Edge.withReset w :: List.replicate k (Edge.withReset w), d.rst = true :=
    fun d hd => by rw [List.eq_of_mem_replicate (n := k + 1) hd, Edge.withReset]
  have hrun := runFor_of_rst (List.replicate k (Edge.withReset w)) hrst hup
  rwa [List.length_replicate] at hrun

/-! ### The sum port (R51, R110) -/

/-- A SUM that completes returns what the port shows, and the port shows it still. -/
theorem sumPort_of_exec_sum {s t : State} (h : exec .sum s = .next t) :
    s.sumPort = some (maskedSum s.crc) ∧ t.sumPort = some (maskedSum s.crc) ∧
      t.returned = s.returned ++ [maskedSum s.crc] := by
  obtain ⟨⟨⟩, -⟩ | ⟨⟨⟩, -⟩ | ⟨_, ⟨⟩, -⟩ | ⟨-, hready, rfl⟩ := exec_next_cases h
  exact ⟨State.sumPort_of_ready s hready, State.sumPort_of_ready _ hready, rfl⟩

/-- Settles O23: the port is a function of the register and the phase alone, and each edge's effect on them is known. -/
theorem sumPortShowsTheRegister : Obligations.SumPortShowsTheRegister := by
  refine ⟨fun s hready => ?_, fun s p n => rfl, fun s t hr hi h => ?_, fun s t hr h => ?_,
    State.sumPort_of_unready⟩
  · rw [State.sumPort_of_ready s hready, maskedSum_eq_setWidth, BitVec.setWidth_eq_extractLsb' (by decide)]
  · obtain ⟨hport, hport', hreturned⟩ := sumPort_of_exec_sum (exec_of_step h hr hi)
    exact ⟨maskedSum s.crc, hport, hreturned, hport'⟩
  · rw [step_of_rst hr] at h
    rw [← Host.Outcome.next.inj h, State.sumPort_initialise]

/-! ### A second message (R103) -/

/-- After the edges of `CRC24 a`, from any state, every SUM returns the checksum of the bytes since the last reset. -/
theorem runFor_crc24_append (s : State) (a : List Byte) (p : List Edge) :
    ∃ t, runFor ((Pseudo.crc24 a).expand.map Edge.ofInstr ++ p).length
        (s.load ((Pseudo.crc24 a).expand.map Edge.ofInstr ++ p)) = .next t ∧
      t.returned = s.returned ++ checksum a :: owedSums a p := by
  have hlength : ((Pseudo.crc24 a).expand.map Edge.ofInstr).length = a.length + 2 := by simp [Pseudo.expand]
  have hup := State.upcoming_load s ((Pseudo.crc24 a).expand.map Edge.ofInstr ++ p)
  have hfirst := runFor_crc24 a hup
  have hrest := upcoming_of_runFor hfirst
  rw [hup, List.drop_left' hlength] at hrest
  obtain ⟨t, hrun, -, hreturned⟩ := runFor_holdsMessage p ⟨rfl, rfl⟩ (hrest.trans (List.append_nil p).symm)
  rw [List.length_append, hlength]
  exact ⟨t, (runFor_add_of_next hfirst p.length).trans hrun, by rw [hreturned]; simp⟩

/-- Without a RESET the SUM after the bytes `b` is owed the checksum of all that was written. -/
theorem owedSums_write_sum (sofar b : List Byte) :
    owedSums sofar ((Call.write b).edges ++ Call.sum.edges) = [checksum (sofar ++ b)] := by
  rw [owedSums_write_edges_append, Call.edges]
  simp [owedSums, Edge.ofInstr]

/-- After a RESET nothing counts as written. -/
theorem owedSums_reset_cons (sofar : List Byte) (rest : List Edge) :
    owedSums sofar (Edge.ofInstr .reset :: rest) = owedSums [] rest := by
  simp [owedSums, Edge.ofInstr]

/-- The one SUM of `CRC24 b` is owed the checksum of `b`, whatever was written before. -/
theorem owedSums_crc24 (sofar b : List Byte) :
    owedSums sofar ((Pseudo.crc24 b).expand.map Edge.ofInstr) = [checksum b] := by
  rw [crc24_edges, owedSums_reset_cons]
  exact owedSums_write_sum [] b

/-- Settles O36: what the second SUM is owed is decided by whether a RESET stands among the edges before it. -/
theorem secondMessageNeedsAReset : Obligations.SecondMessageNeedsAReset := by
  intro s a b
  have hseparate := runFor_crc24_append s a ((Pseudo.crc24 b).expand.map Edge.ofInstr)
  have hjoined := runFor_crc24_append s a ((Call.write b).edges ++ Call.sum.edges)
  rw [owedSums_crc24] at hseparate
  rw [owedSums_write_sum, ← List.append_assoc] at hjoined
  exact ⟨hseparate, hjoined⟩

end Sys2Proof.Machine

/-! ## The words written out in `95_test_vectors.md` section 2.6 -/

namespace Sys2Proof

/-- Settles O3: NOP, RESET and SUM are read off the selector, whatever the data, and a WRITE word is the encoding of its
byte. -/
theorem writtenOutWordsDecode : Obligations.WrittenOutWordsDecode := by
  have hnop (w : CommandWord) := (decode_eq_iff_opField (i := .nop) nofun w).2
  have hreset (w : CommandWord) := (decode_eq_iff_opField (i := .reset) nofun w).2
  have hsum (w : CommandWord) := (decode_eq_iff_opField (i := .sum) nofun w).2
  have hwrite (w : CommandWord) (v : Byte) := (decode_eq_write_iff w v).2
  exact ⟨hnop _ rfl, hnop _ rfl, hreset _ rfl, hreset _ rfl, hwrite _ _ rfl, hwrite _ _ rfl, hwrite _ _ rfl,
    hsum _ rfl, hsum _ rfl⟩

end Sys2Proof
